-- ==== Sys2Proof/Word.lean ====
section
/-! DEFINITION. The two word types of PNGCORE (00_scope.md R6: registers and command words are 32 bits, bytes are 8 bits). -/

namespace Sys2Proof

/-- One byte: a cell of IN or OUT, an immediate IMM8, an 8-bit register field (00_scope.md R6). -/
abbrev Byte := BitVec 8

/-- One 32-bit value: a register, a command word, a CRC value, a ROM entry (00_scope.md R6). -/
abbrev Word := BitVec 32

end Sys2Proof
end

