-- ==== Sys2Proof/Config.lean ====
section
/-! DEFINITION. What an implementation of PNGCORE fixes (the parameters of 00_scope.md R5) and the model's free values.
The parameters are plain data (`Params`), which a State carries; `Config.params` is the instance's own choice of them,
made of constants that have no body, so that nothing can be proved about their values but the bounds of R5. -/

namespace Sys2Proof

/-- The answer of the compressor: `Ok(bytes) | Err(e : 32-bit)` (00_scope.md R5). -/
inductive DeflateResult where
  /-- `Ok(c)`: the compressed bytes, spliced in verbatim (42_zlib.md R175). -/
  | ok (c : List Byte)
  /-- `Err(e)`: the error value, which goes to FAULT_INFO verbatim (60_exceptions.md R253). -/
  | err (e : Word)
deriving DecidableEq, Repr, Inhabited

/-- One known answer of the compressor (log 2): DEFLATE(level, raw) = answer. -/
structure DeflateEntry where
  level  : BitVec 2
  raw    : List Byte
  answer : DeflateResult
deriving DecidableEq, Repr

/-- The parameters of 00_scope.md R5 as plain data (log 1, log 2, log 3).
`deflateKnown` holds known answers of DEFLATE; on arguments it does not list, DEFLATE is `Config.deflate`. -/
structure Params where
  /-- IN_CAP, the number of bytes of IN. -/
  inCap        : Nat
  /-- OUT_CAP, the number of bytes of OUT. -/
  outCap       : Nat
  /-- IN_INIT, the bytes of IN at power-up, from address 0 up. -/
  inInit       : List Byte
  /-- OUT_INIT, the bytes of OUT at power-up, from address 0 up. -/
  outInit      : List Byte
  /-- Known answers of DEFLATE. -/
  deflateKnown : List DeflateEntry
deriving DecidableEq, Repr

/-- Which of the admissible input capacities the instance has: IN_CAP - 1 (00_scope.md R5). -/
opaque Config.inCapDraw : Fin 4294967296

/-- Which of the admissible output capacities the instance has: OUT_CAP - 8 (00_scope.md R5). -/
opaque Config.outCapDraw : Fin 4294967288

/-- IN_INIT: the arbitrary power-up contents of IN (10_state.md R47). -/
opaque Config.inInit : List Byte

/-- OUT_INIT: the arbitrary power-up contents of OUT (10_state.md R47). -/
opaque Config.outInit : List Byte

/-- DEFLATE, assumed deterministic and nothing else (00_scope.md R5; 93_implementation_defined.md U3). -/
opaque Config.deflate : BitVec 2 → List Byte → DeflateResult

/-- The n-th fresh draw: what an OUT_READ at or above OUT_LEN returns (20_memory.md R67; log 7). -/
opaque Config.outDraw : Nat → Byte

/-- REG_BASE, the platform's address of the register block; no rule reads it (20_memory.md R73). -/
opaque Config.regBase : Nat

/-- The instance's parameters: 1 ≤ IN_CAP ≤ 2^32 and 8 ≤ OUT_CAP ≤ 2^32 − 1 hold whatever the draws are. -/
def Config.params : Params where
  inCap        := Config.inCapDraw.val + 1
  outCap       := Config.outCapDraw.val + 8
  inInit       := Config.inInit
  outInit      := Config.outInit
  deflateKnown := []

end Sys2Proof
end

