-- ==== Sys2Proof/Syntax.lean ====
section
/-! DEFINITION. The sixteen commands of 30_encoding.md R93, one constructor per row of spec/opcode_table.json.
A format-B command carries its immediate IMM8, an unsigned byte (R92); a format-N command carries nothing (R91):
its other operands are registers (R90). -/

namespace Sys2Proof

/-- A PNGCORE command (30_encoding.md R93). -/
inductive Instr where
  /-- CRC_INIT, 40_crc.md R125. -/
  | crcInit
  /-- CRC_BYTE imm8, 40_crc.md R126. -/
  | crcByte (imm8 : Byte)
  /-- CRC_BLOCK, 40_crc.md R127. -/
  | crcBlock
  /-- CRC_FINAL, 40_crc.md R128. -/
  | crcFinal
  /-- CRC_ONESHOT, 40_crc.md R129. -/
  | crcOneshot
  /-- CRC_TBL_READ imm8, 40_crc.md R130. -/
  | crcTblRead (imm8 : Byte)
  /-- ADLER_INIT, 41_adler.md R152. -/
  | adlerInit
  /-- ADLER_BYTE imm8, 41_adler.md R153. -/
  | adlerByte (imm8 : Byte)
  /-- ADLER_BLOCK, 41_adler.md R154. -/
  | adlerBlock
  /-- ADLER_FINAL, 41_adler.md R155. -/
  | adlerFinal
  /-- ADLER_ONESHOT, 41_adler.md R156. -/
  | adlerOneshot
  /-- ZLIB_HDR, 42_zlib.md R177. -/
  | zlibHdr
  /-- STREAM_NEW, 43_framer_stream.md R197. -/
  | streamNew
  /-- WRITE_IHDR, 43_framer_stream.md R198. -/
  | writeIhdr
  /-- WRITE_IDAT, 43_framer_stream.md R199. -/
  | writeIdat
  /-- WRITE_IEND, 43_framer_stream.md R200. -/
  | writeIend
deriving DecidableEq, Repr

end Sys2Proof
end

