-- ==== Sys2Proof/WellFormed.lean ====
section
/-! DEFINITION. Well-formed commands and well-formed parameters.
A command's only operand is IMM8, whose type is exactly the 8-bit field of 30_encoding.md R92, so the syntax holds no
ill-formed command. The checks that can fail are those on the parameters (00_scope.md R5). -/

namespace Sys2Proof

/-- Every term of `Instr` is a legal command: IMM8 takes every value of its 8 bits (30_encoding.md R92), and a
format-N command has no operand (R91). -/
def Instr.wf : Instr → Bool
  | .crcInit => true
  | .crcByte _ => true
  | .crcBlock => true
  | .crcFinal => true
  | .crcOneshot => true
  | .crcTblRead _ => true
  | .adlerInit => true
  | .adlerByte _ => true
  | .adlerBlock => true
  | .adlerFinal => true
  | .adlerOneshot => true
  | .zlibHdr => true
  | .streamNew => true
  | .writeIhdr => true
  | .writeIdat => true
  | .writeIend => true

/-- The constraints of 00_scope.md R5: 1 ≤ IN_CAP ≤ 2^32 and 8 ≤ OUT_CAP ≤ 2^32 − 1. -/
abbrev Params.wf (p : Params) : Prop :=
  1 ≤ p.inCap ∧ p.inCap ≤ 4294967296 ∧ 8 ≤ p.outCap ∧ p.outCap ≤ 4294967295

end Sys2Proof
end

