-- ==== Sys2Proof/Decode.lean ====
section
/-! DEFINITION. The opcode map of 30_encoding.md R93, the decoder of R94 and, after it, the encoder of R91 and R92.
Decode is total on all 2^32 words and rejects by name (R95). -/

namespace Sys2Proof

/-- The two command formats of 30_encoding.md R91 and R92. -/
inductive Format where
  /-- Format N: OPERAND bits [23:0] are 0 (R91). -/
  | n
  /-- Format B: OPERAND bits [23:8] are 0, bits [7:0] are IMM8 (R92). -/
  | b
deriving DecidableEq, Repr

/-- One row of the opcode map: the OP value, the format, and the command that the word stands for, given IMM8. -/
structure OpcodeRow where
  op     : Byte
  format : Format
  build  : Byte → Instr

/-- mask(r): 0xFFFFFFFF for format N, 0xFFFFFF00 for format B (30_encoding.md R94). -/
def OpcodeRow.mask (r : OpcodeRow) : Word :=
  match r.format with
  | .n => 0xFFFFFFFF#32
  | .b => 0xFFFFFF00#32

/-- match(r) = OP(r) << 24 (30_encoding.md R94). -/
def OpcodeRow.pattern (r : OpcodeRow) : Word := r.op.setWidth 32 <<< 24

/-- The sixteen commands of 30_encoding.md R93. -/
def opcodeTable : List OpcodeRow :=
  [ ⟨0x01#8, .n, fun _ => .crcInit⟩,
    ⟨0x02#8, .b, .crcByte⟩,
    ⟨0x03#8, .n, fun _ => .crcBlock⟩,
    ⟨0x04#8, .n, fun _ => .crcFinal⟩,
    ⟨0x05#8, .n, fun _ => .crcOneshot⟩,
    ⟨0x06#8, .b, .crcTblRead⟩,
    ⟨0x10#8, .n, fun _ => .adlerInit⟩,
    ⟨0x11#8, .b, .adlerByte⟩,
    ⟨0x12#8, .n, fun _ => .adlerBlock⟩,
    ⟨0x13#8, .n, fun _ => .adlerFinal⟩,
    ⟨0x14#8, .n, fun _ => .adlerOneshot⟩,
    ⟨0x20#8, .n, fun _ => .zlibHdr⟩,
    ⟨0x30#8, .n, fun _ => .streamNew⟩,
    ⟨0x31#8, .n, fun _ => .writeIhdr⟩,
    ⟨0x32#8, .n, fun _ => .writeIdat⟩,
    ⟨0x33#8, .n, fun _ => .writeIend⟩ ]

/-- OP, bits [31:24] of a command word (30_encoding.md R90). -/
def opField (w : Word) : Byte := w.extractLsb' 24 8

/-- IMM8, bits [7:0] of a command word (30_encoding.md R92). -/
def imm8Field (w : Word) : Byte := w.extractLsb' 0 8

/-- The two reasons of 30_encoding.md R95 for which a word is illegal. -/
inductive IllegalWord where
  /-- OP is not one of the sixteen of R93. -/
  | unassignedOp
  /-- OP is assigned but a bit of OPERAND that the format requires to be 0 is 1. -/
  | operandBits
deriving DecidableEq, Repr

/-- What a word decodes to: a command, or an illegal word with its reason. -/
inductive Decoded where
  | command (i : Instr)
  | illegal (why : IllegalWord)
deriving DecidableEq, Repr

/-- The row of the map that matches a word, if there is one (30_encoding.md R94). -/
def matchingRow (w : Word) : Option OpcodeRow :=
  opcodeTable.find? fun r => (w &&& r.mask) == r.pattern

/-- Decode (30_encoding.md R94, R95). -/
def decode (w : Word) : Decoded :=
  match matchingRow w with
  | some r => .command (r.build (imm8Field w))
  | none =>
    if opcodeTable.any (fun r => r.op == opField w) then .illegal .operandBits
    else .illegal .unassignedOp

/-- The command of a decoding, if it is one. -/
def Decoded.instr? : Decoded → Option Instr
  | .command i => some i
  | .illegal _ => none

/-- The instruction the decoder reads from the table's numbering of a word: one 32-bit word whose bit 0 is the table's
bit 0 (30_encoding.md R90, R97; log 12). -/
def decodeTableWord (nbits w : Nat) : Option Instr :=
  (decode (BitVec.ofNat 32 (w % 2 ^ nbits))).instr?

/-! The encoder. -/

/-- A format-N word: OP << 24 (30_encoding.md R91). -/
def wordN (op : Byte) : Word := op.setWidth 32 <<< 24

/-- A format-B word: (OP << 24) or IMM8 (30_encoding.md R92). -/
def wordB (op imm8 : Byte) : Word := (op.setWidth 32 <<< 24) ||| imm8.setWidth 32

/-- The word of a command (30_encoding.md R93). -/
def encode : Instr → Word
  | .crcInit => wordN 0x01#8
  | .crcByte imm8 => wordB 0x02#8 imm8
  | .crcBlock => wordN 0x03#8
  | .crcFinal => wordN 0x04#8
  | .crcOneshot => wordN 0x05#8
  | .crcTblRead imm8 => wordB 0x06#8 imm8
  | .adlerInit => wordN 0x10#8
  | .adlerByte imm8 => wordB 0x11#8 imm8
  | .adlerBlock => wordN 0x12#8
  | .adlerFinal => wordN 0x13#8
  | .adlerOneshot => wordN 0x14#8
  | .zlibHdr => wordN 0x20#8
  | .streamNew => wordN 0x30#8
  | .writeIhdr => wordN 0x31#8
  | .writeIdat => wordN 0x32#8
  | .writeIend => wordN 0x33#8

end Sys2Proof
end

