-- ==== Sys2Proof/Machine/State.lean ====
section
/-! DEFINITION. The state of one PNGCORE instance (10_state.md R20), the reasons a step can stop, and the state right
after power-up (10_state.md R48). Plain data only. -/

namespace Sys2Proof.Machine

/-- A byte memory: (address, byte) pairs in the canonical form `Memory.wf` of Machine/Ops.lean. -/
abbrev Memory := List Host.Cell

/-- The sequencer states of 10_state.md R42. Values 5, 6 and 7 of the field are never held, so the type has none. -/
inductive Seq where
  | start
  | haveSignature
  | haveHeader
  | haveData
  | complete
deriving DecidableEq, Repr

/-- The fault codes of 60_exceptions.md R250. Codes 0x07 to 0xFF are never recorded, so the type has none. -/
inductive FaultCode where
  | none
  | illegalCmd
  | noSignature
  | order
  | srcRange
  | deflateFail
  | outOverflow
deriving DecidableEq, Repr

/-- The host operations of 45_host_ops.md R230. -/
inductive HostOp where
  /-- RESET (R231). -/
  | reset
  /-- REG_WRITE(o, v) (R232); a command is REG_WRITE(0x00, word). -/
  | regWrite (o v : Word)
  /-- REG_READ(o) (R233). -/
  | regRead (o : Word)
  /-- IN_WRITE(a, b) (R234). -/
  | inWrite (a : Word) (b : Byte)
  /-- IN_READ(a) (R235). -/
  | inRead (a : Word)
  /-- OUT_READ(a) (R236). -/
  | outRead (a : Word)
deriving DecidableEq, Repr

/-- A value that a read operation has returned to the host (45_host_ops.md R240). -/
inductive ReadValue where
  /-- The value of a REG_READ. -/
  | word (v : Word)
  /-- The value of an IN_READ or OUT_READ. -/
  | byte (b : Byte)
deriving DecidableEq, Repr

/-- The state of 10_state.md R20, and after it the model's own fields: the parameters (log 1), the host program and its
index (log 4), the values read (log 6), the counter of fresh draws (log 7). The ROM T and the ID are constants (log 9). -/
structure State where
  /-- CTRL.STRICT (R27). -/
  strict      : Bool
  /-- SRC_ADDR (R29). -/
  srcAddr     : Word
  /-- SRC_LEN (R30). -/
  srcLen      : Word
  /-- CRC_ACC, the accumulator before the final XOR (R31). -/
  crcAcc      : Word
  /-- S1, the low half of ADLER (R32). -/
  s1          : BitVec 16
  /-- S2, the high half of ADLER (R32). -/
  s2          : BitVec 16
  /-- RESULT (R34). -/
  result      : Word
  /-- ZCFG.CINFO (R35). -/
  cinfo       : BitVec 4
  /-- ZCFG.LEVEL (R35). -/
  level       : BitVec 2
  /-- IHDR_WIDTH (R36). -/
  ihdrWidth   : Word
  /-- IHDR_HEIGHT (R37). -/
  ihdrHeight  : Word
  /-- IHDR_FMT[7:0] (R38). -/
  bitDepth    : Byte
  /-- IHDR_FMT[15:8] (R38). -/
  colorType   : Byte
  /-- IHDR_FMT[23:16] (R38). -/
  compression : Byte
  /-- IHDR_FMT[31:24] (R38). -/
  filter      : Byte
  /-- IHDR_ILACE[7:0] (R39). -/
  interlace   : Byte
  /-- STATUS.SEQ (R26, R42). -/
  seq         : Seq
  /-- STATUS.FAULT (R26). -/
  fault       : Bool
  /-- STATUS.FAULT_CODE (R26). -/
  faultCode   : FaultCode
  /-- FAULT_INFO (R28). -/
  faultInfo   : Word
  /-- OUT_LEN (R41). -/
  outLen      : Word
  /-- IN (R44). -/
  inMem       : Memory
  /-- OUT, stale bytes at and above OUT_LEN included (R45). -/
  outMem      : Memory
  /-- The parameters of 00_scope.md R5; no step changes them (log 1). -/
  par         : Params
  /-- The host program: a finite list of host operations (R21; log 4). -/
  program     : List HostOp
  /-- The index of the operation that the next step performs (R21; log 4). -/
  opIndex     : Nat
  /-- The values returned by the reads so far, oldest first (45_host_ops.md R240; log 6). -/
  readLog     : List ReadValue
  /-- How many fresh draws OUT_READ has taken (20_memory.md R67; log 7). -/
  outDraws    : Nat
deriving DecidableEq, Repr

/-- Why the machine stops with a fault: it never does. Each fault of 60_exceptions.md R250 is recorded in STATUS and
FAULT_INFO and the machine goes on (R254, R256), so each is a next state, and this type has no constructor. -/
inductive Fault where
deriving DecidableEq, Repr

/-- Why the model gives no meaning. -/
inductive Refusal where
  /-- Raised only by an arm of `exec` whose instruction has no meaning yet. No arm does so. Safe: the model stops. -/
  | notModelled (mnemonic : String)
deriving DecidableEq, Repr

/-- The state right after power-up (10_state.md R48; 70_reset_and_hazards.md R280, R281): every register at its reset
value, memories with nothing listed, no host program loaded (log 4). -/
def State.reset : State where
  strict      := false
  srcAddr     := 0x00000000#32
  srcLen      := 0x00000000#32
  crcAcc      := 0xFFFFFFFF#32
  s1          := 1#16
  s2          := 0#16
  result      := 0x00000000#32
  cinfo       := 6#4
  level       := 2#2
  ihdrWidth   := 0#32
  ihdrHeight  := 0#32
  bitDepth    := 0#8
  colorType   := 0#8
  compression := 0#8
  filter      := 0#8
  interlace   := 0#8
  seq         := .start
  fault       := false
  faultCode   := .none
  faultInfo   := 0#32
  outLen      := 0#32
  inMem       := []
  outMem      := []
  par         := Config.params
  program     := []
  opIndex     := 0
  readLog     := []
  outDraws    := 0

end Sys2Proof.Machine
end

