-- ==== Sys2Proof/Machine/Ops.lean ====
section
/-! DEFINITION. The named operations over memory and registers: byte order, the canonical byte memory, the updates of
State, recording a fault and the RESET that is the only way out of one, appending to OUT, the host's program. -/

namespace Sys2Proof.Machine

/-- What one command or host operation answers. -/
abbrev Result := Host.Outcome State Fault Refusal

/-- Applies f to the next state of an answer, if it is one. -/
def onNext (f : State → State) : Result → Result
  | .next s => .next (f s)
  | .fault r => .fault r
  | .refused r => .refused r

/-- One answer and then another: f continues from the next state of r, if there is one. -/
def andThen (r : Result) (f : State → Result) : Result :=
  match r with
  | .next s => f s
  | .fault e => .fault e
  | .refused e => .refused e

/-! Byte order (00_scope.md R9; 20_memory.md R68). -/

/-- be32(v): v[31:24], v[23:16], v[15:8], v[7:0] (R9). -/
def be32 (v : Word) : List Byte :=
  [v.extractLsb' 24 8, v.extractLsb' 16 8, v.extractLsb' 8 8, v.extractLsb' 0 8]

/-! A byte memory in canonical form. -/

/-- What an unlisted address reads as: its arbitrary power-up value (10_state.md R47; log 3). -/
def powerUp (init : List Byte) (a : Nat) : Byte := init.getD a 0#8

/-- The listed byte at an address, if there is one. -/
def Memory.cellAt : Memory → Nat → Option Byte
  | [], _ => none
  | c :: m, a => if c.1 = a then some c.2 else Memory.cellAt m a

/-- One byte of a memory. -/
def Memory.read (init : List Byte) (m : Memory) (a : Nat) : Byte :=
  (Memory.cellAt m a).getD (powerUp init a)

/-- Lists byte b at address a, keeping the addresses rising. -/
def Memory.put (a : Nat) (b : Byte) : Memory → Memory
  | [] => [(a, b)]
  | c :: m =>
    if a < c.1 then (a, b) :: c :: m
    else if a = c.1 then (a, b) :: m
    else c :: Memory.put a b m

/-- Unlists address a. -/
def Memory.drop (a : Nat) : Memory → Memory
  | [] => []
  | c :: m => if c.1 = a then Memory.drop a m else c :: Memory.drop a m

/-- Writes one byte; writing the power-up value unlists the address, so that equal memories are equal lists. -/
def Memory.write (init : List Byte) (m : Memory) (a : Nat) (b : Byte) : Memory :=
  if b = powerUp init a then Memory.drop a m else Memory.put a b m

/-- Writes a byte string at a, a + 1, ... -/
def Memory.writeBytes (init : List Byte) : Memory → Nat → List Byte → Memory
  | m, _, [] => m
  | m, a, b :: bs => Memory.writeBytes init (Memory.write init m a b) (a + 1) bs

/-- The canonical form: addresses strictly rising, and no entry equal to what an unlisted address reads as. -/
abbrev Memory.wf (init : List Byte) (m : Memory) : Prop :=
  m.Pairwise (fun x y => x.1 < y.1) ∧ ∀ c ∈ m, c.2 ≠ powerUp init c.1

/-- Every listed address is below cap. -/
abbrev Memory.below (cap : Nat) (m : Memory) : Prop := ∀ c ∈ m, c.1 < cap

/-! The updates of State that the commands make. -/

/-- CRC_ACC <- v. -/
def State.setCrcAcc (v : Word) (s : State) : State := { s with crcAcc := v }

/-- (S1, S2) <- p. -/
def State.setSums (p : BitVec 16 × BitVec 16) (s : State) : State := { s with s1 := p.1, s2 := p.2 }

/-- RESULT <- v. -/
def State.setResult (v : Word) (s : State) : State := { s with result := v }

/-- SEQ <- q. -/
def State.setSeq (q : Seq) (s : State) : State := { s with seq := q }

/-- OUT <- m, OUT_LEN <- n. -/
def State.setOut (m : Memory) (n : Word) (s : State) : State := { s with outMem := m, outLen := n }

/-- IN <- m. -/
def State.setIn (m : Memory) (s : State) : State := { s with inMem := m }

/-- The host receives the value of a read (45_host_ops.md R240). -/
def State.pushRead (v : ReadValue) (s : State) : State := { s with readLog := s.readLog ++ [v] }

/-- One fresh draw has been taken (20_memory.md R67). -/
def State.countDraw (s : State) : State := { s with outDraws := s.outDraws + 1 }

/-- The host's next operation is the following one of its list (10_state.md R21). -/
def State.advance (s : State) : State := { s with opIndex := s.opIndex + 1 }

/-! Faults (60_exceptions.md). -/

/-- Fault recording: FAULT <- 1, FAULT_CODE <- code, FAULT_INFO <- info, and nothing else (60_exceptions.md R254). -/
def recordFault (code : FaultCode) (info : Word) (s : State) : State :=
  { s with fault := true, faultCode := code, faultInfo := info }

/-- `raise Fault(code, info)`: the command ends with the fault recorded; control goes nowhere (00_scope.md R10;
60_exceptions.md R254, R256). -/
def raiseFault (code : FaultCode) (info : Word) (s : State) : Result := .next (recordFault code info s)

/-- RESET: every register and field takes its reset value; IN, OUT and the constants stay; it is the only operation that
clears a recorded fault (45_host_ops.md R231; 60_exceptions.md R257; 10_state.md R47, R48). What is the host's (its
program, its index, the values it has read) and the draw counter are no state of the block and stay. -/
def resetBlock (s : State) : State :=
  { State.reset with
    inMem := s.inMem, outMem := s.outMem, par := s.par, program := s.program, opIndex := s.opIndex,
    readLog := s.readLog, outDraws := s.outDraws }

/-! IN and OUT. -/

/-- IN[a] (10_state.md R44). -/
def inByte (s : State) (a : Nat) : Byte := Memory.read s.par.inInit s.inMem a

/-- OUT[a] (10_state.md R45). -/
def outByte (s : State) (a : Nat) : Byte := Memory.read s.par.outInit s.outMem a

/-- MemRead(IN, a, n): IN[a], IN[a+1], ..., IN[a+n−1] (00_scope.md R10; 20_memory.md R61). -/
def memReadIn (s : State) (a n : Nat) : List Byte := (List.range n).map fun i => inByte s (a + i)

/-- OUT[0 .. OUT_LEN): the stream built so far (10_state.md R45). -/
def outBytes (s : State) : List Byte := (List.range s.outLen.toNat).map (outByte s)

/-- OutAppend(bs): OUT[OUT_LEN + i] <- bs[i], then OUT_LEN <- OUT_LEN + len(bs) (00_scope.md R10). -/
def outAppend (bs : List Byte) (s : State) : State :=
  s.setOut (Memory.writeBytes s.par.outInit s.outMem s.outLen.toNat bs)
    (BitVec.ofNat 32 (s.outLen.toNat + bs.length))

/-! The host's program. -/

/-- Stores an operation where the next step finds it: at the index, in the place of the operation that stands there.
An index past the end of the list, which no run reaches, is first reached by copies of the operation that never run. -/
def storeOp (op : HostOp) (s : State) : State :=
  { s with program := s.program.take s.opIndex ++ List.replicate (s.opIndex - s.program.length) op ++
      op :: s.program.drop (s.opIndex + 1) }

end Sys2Proof.Machine
end

