-- ==== Sys2Proof/Machine/Operands.lean ====
section
/-! DEFINITION. The operands a command takes from registers (30_encoding.md R90): the block of input bytes that SRC_ADDR
and SRC_LEN name. The other operand form, IMM8, is in the command word and is a field of the instruction (R92). -/

namespace Sys2Proof.Machine

/-- The range check of 20_memory.md R62, in unbounded arithmetic. -/
def srcOutOfRange (s : State) : Bool := decide (s.par.inCap < s.srcAddr.toNat + s.srcLen.toNat)

/-- The byte string a block command consumes: MemRead(IN, SRC_ADDR, SRC_LEN) (20_memory.md R61). -/
def blockBytes (s : State) : List Byte := memReadIn s s.srcAddr.toNat s.srcLen.toNat

/-- A block command: it faults SRC_RANGE with its command word, or goes on with the block's bytes
(20_memory.md R62, R63). -/
def withBlock (cmd : Word) (s : State) (body : List Byte → Result) : Result :=
  if srcOutOfRange s then raiseFault .srcRange cmd s else body (blockBytes s)

end Sys2Proof.Machine
end

