-- ==== Sys2Proof/Machine/Adler.lean ====
section
/-! DEFINITION. The Adler-32 unit (41_adler.md): the step, the checksum, and the five ADLER commands. -/

namespace Sys2Proof.Machine

/-- ADLER_STEP: s1 first, then s2 with the new s1, both modulo 65521 (41_adler.md R150). -/
def adlerStep (p : BitVec 16 × BitVec 16) (b : Byte) : BitVec 16 × BitVec 16 :=
  let s1 := (p.1.toNat + b.toNat) % 65521
  let s2 := (p.2.toNat + s1) % 65521
  (BitVec.ofNat 16 s1, BitVec.ofNat 16 s2)

/-- ADLER_UPD: the step over the bytes of d in order (41_adler.md R150). -/
def adlerUpd (p : BitVec 16 × BitVec 16) (d : List Byte) : BitVec 16 × BitVec 16 := d.foldl adlerStep p

/-- The sums right after ADLER_INIT (41_adler.md R152). -/
def adlerStart : BitVec 16 × BitVec 16 := (1#16, 0#16)

/-- s2 * 65536 + s1 (41_adler.md R151). -/
def adlerValue (p : BitVec 16 × BitVec 16) : Word := BitVec.ofNat 32 (p.2.toNat * 65536 + p.1.toNat)

/-- ADLER32(d) (41_adler.md R151). -/
def adler32 (d : List Byte) : Word := adlerValue (adlerUpd adlerStart d)

/-- ADLER_INIT (41_adler.md R152). -/
def execAdlerInit (s : State) : Result := .next (s.setSums adlerStart)

/-- ADLER_BYTE imm8 (41_adler.md R153). -/
def execAdlerByte (imm8 : Byte) (s : State) : Result := .next (s.setSums (adlerStep (s.s1, s.s2) imm8))

/-- ADLER_BLOCK (41_adler.md R154). -/
def execAdlerBlock (s : State) : Result :=
  withBlock 0x12000000#32 s fun d => .next (s.setSums (adlerUpd (s.s1, s.s2) d))

/-- ADLER_FINAL (41_adler.md R155). -/
def execAdlerFinal (s : State) : Result := .next (s.setResult (adlerValue (s.s1, s.s2)))

/-- ADLER_ONESHOT (41_adler.md R156). -/
def execAdlerOneshot (s : State) : Result :=
  withBlock 0x14000000#32 s fun d => .next (s.setResult (adler32 d))

end Sys2Proof.Machine
end

