-- ==== Sys2Proof/Machine/Crc.lean ====
section
/-! DEFINITION. The CRC-32 engine (40_crc.md): the ROM, the step, the checksum, and the six CRC commands. -/

namespace Sys2Proof.Machine

/-- One of the eight rounds of table generation; bit 0 is tested before the shift (40_crc.md R120). -/
def crcRound (c : Word) : Word := if c.getLsbD 0 then (c >>> 1) ^^^ 0xEDB88320#32 else c >>> 1

/-- n rounds. -/
def crcRounds : Nat → Word → Word
  | 0, c => c
  | n + 1, c => crcRounds n (crcRound c)

/-- T[n], the entry of the CRC ROM (40_crc.md R120; 10_state.md R40; log 9). -/
def crcTable (n : Byte) : Word := crcRounds 8 (n.setWidth 32)

/-- CRC_STEP(a, b) = T[(a xor zext_32(b)) and 0xFF] xor (a >> 8) (40_crc.md R122). -/
def crcStep (a : Word) (b : Byte) : Word :=
  crcTable (((a ^^^ b.setWidth 32) &&& 0xFF#32).setWidth 8) ^^^ (a >>> 8)

/-- CRC_UPD(a, d): the step over the bytes of d in order (40_crc.md R122). -/
def crcUpd (a : Word) (d : List Byte) : Word := d.foldl crcStep a

/-- CRC32(d) (40_crc.md R123). -/
def crc32 (d : List Byte) : Word := crcUpd 0xFFFFFFFF#32 d ^^^ 0xFFFFFFFF#32

/-- CRC_INIT (40_crc.md R125). -/
def execCrcInit (s : State) : Result := .next (s.setCrcAcc 0xFFFFFFFF#32)

/-- CRC_BYTE imm8 (40_crc.md R126). -/
def execCrcByte (imm8 : Byte) (s : State) : Result := .next (s.setCrcAcc (crcStep s.crcAcc imm8))

/-- CRC_BLOCK (40_crc.md R127). -/
def execCrcBlock (s : State) : Result :=
  withBlock 0x03000000#32 s fun d => .next (s.setCrcAcc (crcUpd s.crcAcc d))

/-- CRC_FINAL (40_crc.md R128). -/
def execCrcFinal (s : State) : Result := .next (s.setResult (s.crcAcc ^^^ 0xFFFFFFFF#32))

/-- CRC_ONESHOT (40_crc.md R129). -/
def execCrcOneshot (s : State) : Result :=
  withBlock 0x05000000#32 s fun d => .next (s.setResult (crc32 d))

/-- CRC_TBL_READ imm8 (40_crc.md R130). -/
def execCrcTblRead (imm8 : Byte) (s : State) : Result := .next (s.setResult (crcTable imm8))

end Sys2Proof.Machine
end

