-- ==== Sys2Proof/Machine/Flags.lean ====
section
/-! DEFINITION. STATUS: the encodings of its fields (10_state.md R26, R42; 60_exceptions.md R250). PNGCORE has no
condition codes other than STATUS.FAULT (10_state.md R49), so no command computes a flag. -/

namespace Sys2Proof.Machine

/-- The 3-bit encoding of the sequencer state (10_state.md R42). -/
def seqBits : Seq → BitVec 3
  | .start => 0#3
  | .haveSignature => 1#3
  | .haveHeader => 2#3
  | .haveData => 3#3
  | .complete => 4#3

/-- The 8-bit fault code (60_exceptions.md R250). -/
def faultCodeBits : FaultCode → Byte
  | .none => 0x00#8
  | .illegalCmd => 0x01#8
  | .noSignature => 0x02#8
  | .order => 0x03#8
  | .srcRange => 0x04#8
  | .deflateFail => 0x05#8
  | .outOverflow => 0x06#8

/-- STATUS = zext_32(FAULT_CODE) << 8 or FAULT << 3 or SEQ (45_host_ops.md R233). -/
def statusWord (s : State) : Word :=
  ((faultCodeBits s.faultCode).setWidth 32 <<< 8) ||| ((BitVec.ofBool s.fault).setWidth 32 <<< 3) |||
    (seqBits s.seq).setWidth 32

end Sys2Proof.Machine
end

