-- ==== Sys2Proof/Machine/Zlib.lean ====
section
/-! DEFINITION. The zlib envelope builder (42_zlib.md): the header bytes, the DEFLATE call, the envelope, ZLIB_HDR. -/

namespace Sys2Proof.Machine

/-- CMF(cinfo) = (cinfo << 4) or 8 (42_zlib.md R170). -/
def cmf (cinfo : BitVec 4) : Byte := (cinfo.setWidth 8 <<< 4) ||| 8#8

/-- FLG_BASE(level) = level << 6 (42_zlib.md R171). -/
def flgBase (level : BitVec 2) : Byte := level.setWidth 8 <<< 6

/-- FCHECK = 31 − (v mod 31), v = CMF * 256 + FLG_BASE: 1 to 31 (42_zlib.md R172). -/
def fcheck (cinfo : BitVec 4) (level : BitVec 2) : Nat :=
  31 - ((cmf cinfo).toNat * 256 + (flgBase level).toNat) % 31

/-- FLG = FLG_BASE or FCHECK (42_zlib.md R172). -/
def flg (cinfo : BitVec 4) (level : BitVec 2) : Byte :=
  flgBase level ||| BitVec.ofNat 8 (fcheck cinfo level)

/-- The header as a 16-bit big-endian value, zero-extended: CMF * 256 + FLG (42_zlib.md R177; 20_memory.md R69). -/
def zlibHeader (cinfo : BitVec 4) (level : BitVec 2) : Word :=
  BitVec.ofNat 32 ((cmf cinfo).toNat * 256 + (flg cinfo level).toNat)

/-- DEFLATE(level, raw): the parameter of 00_scope.md R5, a function of its arguments and of nothing else
(42_zlib.md R175; log 2). -/
def deflate (p : Params) (level : BitVec 2) (raw : List Byte) : DeflateResult :=
  match p.deflateKnown.find? (fun e => e.level == level && e.raw == raw) with
  | some e => e.answer
  | none => Config.deflate level raw

/-- ZLIB_ENVELOPE(raw): CMF, FLG, the compressor's bytes, and the big-endian Adler-32 of the raw bytes; the compressor's
error passes through unchanged (42_zlib.md R174, R176). -/
def zlibEnvelope (p : Params) (cinfo : BitVec 4) (level : BitVec 2) (raw : List Byte) : DeflateResult :=
  match deflate p level raw with
  | .err e => .err e
  | .ok c => .ok ([cmf cinfo, flg cinfo level] ++ c ++ be32 (adler32 raw))

/-- ZLIB_HDR (42_zlib.md R177). -/
def execZlibHdr (s : State) : Result := .next (s.setResult (zlibHeader s.cinfo s.level))

end Sys2Proof.Machine
end

