-- ==== Sys2Proof/Machine/Stream.lean ====
section
/-! DEFINITION. The chunk framer and the PNG stream builder (43_framer_stream.md): frames, the chunk-write admission,
STREAM_NEW and the three WRITE_* commands. -/

namespace Sys2Proof.Machine

/-- The PNG signature, 89 50 4E 47 0D 0A 1A 0A (43_framer_stream.md R193). -/
def signature : List Byte := [0x89#8, 0x50#8, 0x4E#8, 0x47#8, 0x0D#8, 0x0A#8, 0x1A#8, 0x0A#8]

/-- The three kinds of chunk (43_framer_stream.md R192). -/
inductive Chunk where
  | ihdr
  | idat
  | iend
deriving DecidableEq, Repr

/-- The ASCII type tags (43_framer_stream.md R192). -/
def tag : Chunk → List Byte
  | .ihdr => [0x49#8, 0x48#8, 0x44#8, 0x52#8]
  | .idat => [0x49#8, 0x44#8, 0x41#8, 0x54#8]
  | .iend => [0x49#8, 0x45#8, 0x4E#8, 0x44#8]

/-- FRAME(tag, payload) = be32(len(payload)) ‖ tag ‖ payload ‖ be32(CRC32(tag ‖ payload)) (43_framer_stream.md R190). -/
def frame (tg payload : List Byte) : List Byte :=
  be32 (BitVec.ofNat 32 payload.length) ++ tg ++ payload ++ be32 (crc32 (tg ++ payload))

/-- IHDR_PAYLOAD, 13 bytes (43_framer_stream.md R194). -/
def ihdrPayload (s : State) : List Byte :=
  be32 s.ihdrWidth ++ be32 s.ihdrHeight ++ [s.bitDepth, s.colorType, s.compression, s.filter, s.interlace]

/-- The order check of strict mode: true where the chunk kind is not legal in the sequencer state
(43_framer_stream.md R195). -/
def outOfOrder : Chunk → Seq → Bool
  | .ihdr, q => q != .haveSignature
  | .idat, q => q != .haveHeader && q != .haveData
  | .iend, q => q != .haveHeader && q != .haveData

/-- ADMIT(kind, w), then the rest of the command (43_framer_stream.md R195). -/
def admitChunk (kind : Chunk) (cmd : Word) (s : State) (body : Result) : Result :=
  if s.seq = .start then raiseFault .noSignature cmd s
  else if s.strict && outOfOrder kind s.seq then raiseFault .order cmd s
  else body

/-- The sequencer state that a completed chunk write leaves (43_framer_stream.md R196). -/
def seqAfter : Chunk → Seq
  | .ihdr => .haveHeader
  | .idat => .haveData
  | .iend => .complete

/-- The end of a WRITE_* command: the capacity check (20_memory.md R66), then the frame is appended, SEQ moves on and
RESULT takes the CRC written in the frame (43_framer_stream.md R198 to R200). -/
def appendChunk (kind : Chunk) (payload : List Byte) (cmd : Word) (s : State) : Result :=
  if s.par.outCap < s.outLen.toNat + (frame (tag kind) payload).length then raiseFault .outOverflow cmd s
  else .next (((outAppend (frame (tag kind) payload) s).setSeq (seqAfter kind)).setResult
    (crc32 (tag kind ++ payload)))

/-- STREAM_NEW (43_framer_stream.md R197): a new stream, in every SEQ state and both modes. -/
def execStreamNew (s : State) : Result :=
  .next ((outAppend signature (s.setOut s.outMem 0#32)).setSeq .haveSignature)

/-- WRITE_IHDR (43_framer_stream.md R198). -/
def execWriteIhdr (s : State) : Result :=
  admitChunk .ihdr 0x31000000#32 s (appendChunk .ihdr (ihdrPayload s) 0x31000000#32 s)

/-- WRITE_IDAT (43_framer_stream.md R199): the raw bytes of the block, wrapped once by the envelope and framed. -/
def execWriteIdat (s : State) : Result :=
  admitChunk .idat 0x32000000#32 s <| withBlock 0x32000000#32 s fun raw =>
    match zlibEnvelope s.par s.cinfo s.level raw with
    | .err e => raiseFault .deflateFail e s
    | .ok p => appendChunk .idat p 0x32000000#32 s

/-- WRITE_IEND (43_framer_stream.md R200). -/
def execWriteIend (s : State) : Result :=
  admitChunk .iend 0x33000000#32 s (appendChunk .iend [] 0x33000000#32 s)

end Sys2Proof.Machine
end

