-- ==== Sys2Proof/Machine/Dispatch.lean ====
section
/-! DEFINITION. The dispatch: one arm per constructor of Instr, each a direct call of the instruction's meaning. -/

namespace Sys2Proof.Machine

-- The meaning of a command in a state; whether a command word is issued at all is Machine/HostOps.lean's (R94, R255).
def exec (i : Instr) (s : State) : Host.Outcome State Fault Refusal :=
  match i with
  | .crcInit => Sys2Proof.Machine.execCrcInit s
  | .crcByte imm8 => Sys2Proof.Machine.execCrcByte imm8 s
  | .crcBlock => Sys2Proof.Machine.execCrcBlock s
  | .crcFinal => Sys2Proof.Machine.execCrcFinal s
  | .crcOneshot => Sys2Proof.Machine.execCrcOneshot s
  | .crcTblRead imm8 => Sys2Proof.Machine.execCrcTblRead imm8 s
  | .adlerInit => Sys2Proof.Machine.execAdlerInit s
  | .adlerByte imm8 => Sys2Proof.Machine.execAdlerByte imm8 s
  | .adlerBlock => Sys2Proof.Machine.execAdlerBlock s
  | .adlerFinal => Sys2Proof.Machine.execAdlerFinal s
  | .adlerOneshot => Sys2Proof.Machine.execAdlerOneshot s
  | .zlibHdr => Sys2Proof.Machine.execZlibHdr s
  | .streamNew => Sys2Proof.Machine.execStreamNew s
  | .writeIhdr => Sys2Proof.Machine.execWriteIhdr s
  | .writeIdat => Sys2Proof.Machine.execWriteIdat s
  | .writeIend => Sys2Proof.Machine.execWriteIend s

end Sys2Proof.Machine
end

