-- ==== Sys2Proof/Machine/HostOps.lean ====
section
/-! DEFINITION. The host operations (45_host_ops.md): the register map, register reads and writes, the issue of a command
word, IN and OUT accesses, RESET. -/

namespace Sys2Proof.Machine

/-- The sixteen registers of 10_state.md R23. -/
inductive Reg where
  | cmd | status | ctrl | faultInfo | srcAddr | srcLen | crcAcc | adler
  | id | result | zcfg | ihdrWidth | ihdrHeight | ihdrFmt | ihdrIlace | outLen
deriving DecidableEq, Repr

/-- The access rights of the register map (10_state.md R23). -/
inductive Access where
  | writeOnly
  | readOnly
  | readWrite
deriving DecidableEq, Repr

/-- The registers in the order of their offsets, 4 bytes apart (10_state.md R23). -/
def regMap : List Reg :=
  [.cmd, .status, .ctrl, .faultInfo, .srcAddr, .srcLen, .crcAcc, .adler,
   .id, .result, .zcfg, .ihdrWidth, .ihdrHeight, .ihdrFmt, .ihdrIlace, .outLen]

/-- The register at an offset: the one at `o and 0x3C` when o < 0x40, none above (10_state.md R24). -/
def regAt (o : Word) : Option Reg :=
  if o.toNat < 0x40 then regMap[(o &&& 0x3C#32).toNat / 4]? else none

/-- The access right of a register (10_state.md R23). -/
def access : Reg → Access
  | .cmd => .writeOnly
  | .status => .readOnly
  | .ctrl => .readWrite
  | .faultInfo => .readOnly
  | .srcAddr => .readWrite
  | .srcLen => .readWrite
  | .crcAcc => .readWrite
  | .adler => .readOnly
  | .id => .readOnly
  | .result => .readOnly
  | .zcfg => .readWrite
  | .ihdrWidth => .readWrite
  | .ihdrHeight => .readWrite
  | .ihdrFmt => .readWrite
  | .ihdrIlace => .readWrite
  | .outLen => .readOnly

/-- The constant of the ID register (10_state.md R33; log 9). -/
def idValue : Word := 0x504E4701#32

/-- The value of a register, assembled from its fields with reserved bits 0 (45_host_ops.md R233). -/
def regValue (s : State) : Reg → Word
  | .cmd => 0x00000000#32
  | .status => statusWord s
  | .ctrl => (BitVec.ofBool s.strict).setWidth 32
  | .faultInfo => s.faultInfo
  | .srcAddr => s.srcAddr
  | .srcLen => s.srcLen
  | .crcAcc => s.crcAcc
  | .adler => (s.s2.setWidth 32 <<< 16) ||| s.s1.setWidth 32
  | .id => idValue
  | .result => s.result
  | .zcfg => (s.level.setWidth 32 <<< 4) ||| s.cinfo.setWidth 32
  | .ihdrWidth => s.ihdrWidth
  | .ihdrHeight => s.ihdrHeight
  | .ihdrFmt => (s.filter.setWidth 32 <<< 24) ||| (s.compression.setWidth 32 <<< 16) |||
      (s.colorType.setWidth 32 <<< 8) ||| s.bitDepth.setWidth 32
  | .ihdrIlace => s.interlace.setWidth 32
  | .outLen => s.outLen

/-- REG_READ(o): 0 at and above 0x40 (45_host_ops.md R233). -/
def regRead (s : State) (o : Word) : Word :=
  match regAt o with
  | none => 0x00000000#32
  | some r => regValue s r

/-- Stores the bits of v that belong to fields of a read-write register; reserved bits are dropped; a read-only register
does not change, and CMD stores nothing (45_host_ops.md R232; 10_state.md R24, R25). -/
def storeReg (v : Word) (s : State) : Reg → State
  | .cmd => s
  | .status => s
  | .ctrl => { s with strict := v.getLsbD 0 }
  | .faultInfo => s
  | .srcAddr => { s with srcAddr := v }
  | .srcLen => { s with srcLen := v }
  | .crcAcc => { s with crcAcc := v }
  | .adler => s
  | .id => s
  | .result => s
  | .zcfg => { s with cinfo := v.extractLsb' 0 4, level := v.extractLsb' 4 2 }
  | .ihdrWidth => { s with ihdrWidth := v }
  | .ihdrHeight => { s with ihdrHeight := v }
  | .ihdrFmt => { s with
      bitDepth := v.extractLsb' 0 8, colorType := v.extractLsb' 8 8, compression := v.extractLsb' 16 8,
      filter := v.extractLsb' 24 8 }
  | .ihdrIlace => { s with interlace := v.extractLsb' 0 8 }
  | .outLen => s

/-- The issue of a command word: discarded while FAULT = 1, otherwise decoded and executed, or ILLEGAL_CMD
(30_encoding.md R94, R95; 60_exceptions.md R255). -/
def issueCommand (w : Word) (s : State) : Result :=
  if s.fault then .next s
  else match decode w with
    | .command i => exec i s
    | .illegal _ => raiseFault .illegalCmd w s

/-- REG_WRITE(o, v) (45_host_ops.md R232). -/
def regWrite (o v : Word) (s : State) : Result :=
  match regAt o with
  | none => .next s
  | some r => if r = .cmd then issueCommand v s else .next (storeReg v s r)

/-- IN_WRITE(a, b): no effect at and above IN_CAP (45_host_ops.md R234; 20_memory.md R64). -/
def inWrite (a : Word) (b : Byte) (s : State) : State :=
  if a.toNat < s.par.inCap then s.setIn (Memory.write s.par.inInit s.inMem a.toNat b) else s

/-- IN_READ(a): 0x00 at and above IN_CAP (45_host_ops.md R235; 20_memory.md R64). -/
def inRead (s : State) (a : Word) : Byte := if a.toNat < s.par.inCap then inByte s a.toNat else 0x00#8

/-- OUT_READ(a): the byte of the stream below OUT_LEN, otherwise a fresh free value (45_host_ops.md R236;
20_memory.md R67; log 7). -/
def outRead (s : State) (a : Word) : Byte :=
  if a.toNat < s.outLen.toNat then outByte s a.toNat else Config.outDraw s.outDraws

/-- OUT_READ(a) as an operation: the host receives the byte, and a draw is counted where one was taken. -/
def performOutRead (a : Word) (s : State) : State :=
  let s' := s.pushRead (.byte (outRead s a))
  if a.toNat < s.outLen.toNat then s' else s'.countDraw

/-- One host operation (45_host_ops.md R230). -/
def perform (op : HostOp) (s : State) : Result :=
  match op with
  | .reset => .next (resetBlock s)
  | .regWrite o v => regWrite o v s
  | .regRead o => .next (s.pushRead (.word (regRead s o)))
  | .inWrite a b => .next (inWrite a b s)
  | .inRead a => .next (s.pushRead (.byte (inRead s a)))
  | .outRead a => .next (performOutRead a s)

/-- The operation that the next step performs, if the host's list is not exhausted (10_state.md R21). -/
def nextOp (s : State) : Option HostOp := s.program[s.opIndex]?

/-- One step of a run: the operation at the index, complete with the command it issues, and then the index advances by
one (45_host_ops.md R230, R240). With no operation left nothing happens (log 5). -/
def runNextOp (s : State) : Result :=
  match nextOp s with
  | none => .next s
  | some op => onNext State.advance (perform op s)

/-- A command as the host issues it: REG_WRITE(0x00, w) (30_encoding.md R98). -/
def commandOp (w : Word) : HostOp := .regWrite 0x00000000#32 w

end Sys2Proof.Machine
end

