-- ==== Sys2Proof/Machine/Step.lean ====
section
/-! DEFINITION. One step of the machine, and how the host puts a command where the next step finds it. -/

namespace Sys2Proof.Machine

/-- One step: the host's next operation (45_host_ops.md R230; 10_state.md R21). -/
def step (s : State) : Host.Outcome State Fault Refusal := runNextOp s

/-- s with the command word w, in the opcode table's numbering, as the operation that the next step performs (log 4). -/
def State.withFetchWord (s : State) (nbits w : Nat) : State :=
  storeOp (commandOp (BitVec.ofNat 32 (w % 2 ^ nbits))) s

end Sys2Proof.Machine
end

