-- ==== Sys2Proof/Machine/Assembler.lean ====
section
/-! DEFINITION. The notation for host programs: the operation syntax of 30_encoding.md R98 and the pseudo-instructions of
R99, from text to the list of host operations. It is notation only (92_eei_decisions.md D35); no step uses it.
What R98 leaves open is fixed in log 13, and what R99 leaves open in log 18. -/

namespace Sys2Proof.Machine

/-- One line of a host program: a host operation or command of 30_encoding.md R98, or a pseudo-instruction of R99. -/
inductive AsmLine where
  | op (h : HostOp)
  | command (i : Instr)
  | crc32 (a n : Word)
  | crcUpd (a n : Word)
  | adler32 (a n : Word)
  | adlerUpd (a n : Word)
  | inBytes (a : Word) (bs : List Byte)
  | zcfgSet (cinfo level : Word)
  | ihdr (w h bd ct cm fm im : Word)
  | idat (a n : Word)
  | iend
deriving DecidableEq, Repr

/-- A command line: `WR CMD, word` (30_encoding.md R98). -/
def asmCommand (i : Instr) : HostOp := commandOp (encode i)

/-- SRC_ADDR and SRC_LEN, then a block command (30_encoding.md R99). -/
def asmBlock (a n : Word) (i : Instr) : List HostOp :=
  [.regWrite 0x10#32 a, .regWrite 0x14#32 n, asmCommand i]

/-- INW a, b0 ; INW a+1, b1 ; ... (30_encoding.md R99). DESIGN CHOICE: past address 0xFFFFFFFF the addresses go on from
0, which the spec leaves open (log 18). -/
def asmBytes : Word → List Byte → List HostOp
  | _, [] => []
  | a, b :: bs => .inWrite a b :: asmBytes (a + 1#32) bs

/-- The host operations of a line (30_encoding.md R98, R99). -/
def expand : AsmLine → List HostOp
  | .op h => [h]
  | .command i => [asmCommand i]
  | .crc32 a n => asmBlock a n .crcOneshot
  | .crcUpd a n => asmBlock a n .crcBlock
  | .adler32 a n => asmBlock a n .adlerOneshot
  | .adlerUpd a n => asmBlock a n .adlerBlock
  | .inBytes a bs => asmBytes a bs
  | .zcfgSet cinfo level => [.regWrite 0x28#32 ((level <<< 4) ||| cinfo)]
  | .ihdr w h bd ct cm fm im =>
    [.regWrite 0x2C#32 w, .regWrite 0x30#32 h,
     .regWrite 0x34#32 ((fm <<< 24) ||| (cm <<< 16) ||| (ct <<< 8) ||| bd),
     .regWrite 0x38#32 im, asmCommand .writeIhdr]
  | .idat a n => asmBlock a n .writeIdat
  | .iend => [asmCommand .writeIend]

/-! Text. -/

/-- The register names of 10_state.md R23, in the order of `regMap`. -/
def regNames : List String :=
  ["CMD", "STATUS", "CTRL", "FAULT_INFO", "SRC_ADDR", "SRC_LEN", "CRC_ACC", "ADLER",
   "ID", "RESULT", "ZCFG", "IHDR_WIDTH", "IHDR_HEIGHT", "IHDR_FMT", "IHDR_ILACE", "OUT_LEN"]

/-- The value of a digit character. -/
def digitValue (c : Char) : Option Nat :=
  if '0' ≤ c && c ≤ '9' then some (c.toNat - 48)
  else if 'a' ≤ c && c ≤ 'f' then some (c.toNat - 87)
  else if 'A' ≤ c && c ≤ 'F' then some (c.toNat - 55)
  else none

/-- The number that digits spell in a base, after a number already read. -/
def digitsValue (base : Nat) : Nat → List Char → Option Nat
  | acc, [] => some acc
  | acc, c :: cs =>
    match digitValue c with
    | some d => if d < base then digitsValue base (acc * base + d) cs else none
    | none => none

/-- A decimal or 0x number (30_encoding.md R98). -/
def numberValue : List Char → Option Nat
  | [] => none
  | '0' :: 'x' :: [] => none
  | '0' :: 'x' :: cs => digitsValue 16 0 cs
  | cs => digitsValue 10 0 cs

/-- A number of at most the given width; a larger one is refused. -/
def bitsValue (n : Nat) (cs : List Char) : Option (BitVec n) :=
  match numberValue cs with
  | some v => if v < 2 ^ n then some (BitVec.ofNat n v) else none
  | none => none

/-- A byte of a byte string: two hexadecimal digits, no prefix (00_scope.md R7). -/
def hexByte : List Char → Option Byte
  | [c, d] =>
    match digitsValue 16 0 [c, d] with
    | some v => some (BitVec.ofNat 8 v)
    | none => none
  | _ => none

/-- All of a list's values, or none if one is missing. -/
def allSome {α β : Type} (f : α → Option β) : List α → Option (List β)
  | [] => some []
  | a :: as =>
    match f a, allSome f as with
    | some b, some bs => some (b :: bs)
    | _, _ => none

/-- A register operand: a name of 10_state.md R23 or a numeric offset (30_encoding.md R98). -/
def regOperand (cs : List Char) : Option Word :=
  match regNames.findIdx? (· == String.ofList cs) with
  | some i => some (BitVec.ofNat 32 (4 * i))
  | none => bitsValue 32 cs

/-- A command mnemonic of format N (30_encoding.md R93). -/
def plainCommand : String → Option Instr
  | "CRC_INIT" => some .crcInit
  | "CRC_BLOCK" => some .crcBlock
  | "CRC_FINAL" => some .crcFinal
  | "CRC_ONESHOT" => some .crcOneshot
  | "ADLER_INIT" => some .adlerInit
  | "ADLER_BLOCK" => some .adlerBlock
  | "ADLER_FINAL" => some .adlerFinal
  | "ADLER_ONESHOT" => some .adlerOneshot
  | "ZLIB_HDR" => some .zlibHdr
  | "STREAM_NEW" => some .streamNew
  | "WRITE_IHDR" => some .writeIhdr
  | "WRITE_IDAT" => some .writeIdat
  | "WRITE_IEND" => some .writeIend
  | _ => none

/-- A command mnemonic of format B (30_encoding.md R93). -/
def byteCommand : String → Option (Byte → Instr)
  | "CRC_BYTE" => some .crcByte
  | "CRC_TBL_READ" => some .crcTblRead
  | "ADLER_BYTE" => some .adlerByte
  | _ => none

/-- A line with the two operands `a, n` of a block pseudo-instruction (30_encoding.md R99). -/
def blockLine (f : Word → Word → AsmLine) (args : List (List Char)) : Option AsmLine :=
  match allSome (bitsValue 32) args with
  | some [a, n] => some (f a n)
  | _ => none

/-- A command line: no operand for format N, one IMM8 in 0..255 for format B (30_encoding.md R98). -/
def commandLine (name : String) (args : List (List Char)) : Option AsmLine :=
  match plainCommand name, byteCommand name, args with
  | some i, _, [] => some (.command i)
  | none, some f, [x] => (bitsValue 8 x).map fun imm8 => .command (f imm8)
  | _, _, _ => none

/-- A line from its name and operands; none where the assembler refuses it. -/
def namedLine (name : String) (args : List (List Char)) : Option AsmLine :=
  match name with
  | "WR" =>
    match args with
    | [r, v] =>
      match regOperand r, bitsValue 32 v with
      | some o, some v => some (.op (.regWrite o v))
      | _, _ => none
    | _ => none
  | "RD" =>
    match args with
    | [r] => (regOperand r).map fun o => .op (.regRead o)
    | _ => none
  | "INW" =>
    match args with
    | [a, b] =>
      match bitsValue 32 a, bitsValue 8 b with
      | some a, some b => some (.op (.inWrite a b))
      | _, _ => none
    | _ => none
  | "INR" =>
    match args with
    | [a] => (bitsValue 32 a).map fun a => .op (.inRead a)
    | _ => none
  | "OUTR" =>
    match args with
    | [a] => (bitsValue 32 a).map fun a => .op (.outRead a)
    | _ => none
  | "RESET" =>
    match args with
    | [] => some (.op .reset)
    | _ => none
  | "CRC32" => blockLine .crc32 args
  | "CRCUPD" => blockLine .crcUpd args
  | "ADLER32" => blockLine .adler32 args
  | "ADLERUPD" => blockLine .adlerUpd args
  | "INBYTES" =>
    match args with
    | a :: bs =>
      match bitsValue 32 a, allSome hexByte bs with
      | some a, some (b :: bs) => some (.inBytes a (b :: bs))
      | _, _ => none
    | [] => none
  | "ZCFGSET" => blockLine .zcfgSet args
  | "IHDR" =>
    match allSome (bitsValue 32) args with
    | some [w, h, bd, ct, cm, fm, im] => some (.ihdr w h bd ct cm fm im)
    | _ => none
  | "IDAT" => blockLine .idat args
  | "IEND" =>
    match args with
    | [] => some .iend
    | _ => none
  | _ => commandLine name args

/-- Characters that separate the words of a line. -/
def isSeparator (c : Char) : Bool := c == ' ' || c == ',' || c == '\t'

/-- The words of a line, after the word being read; a comment begins at `;` (30_encoding.md R98). -/
def lineWords : List Char → List Char → List (List Char)
  | word, [] => if word.isEmpty then [] else [word.reverse]
  | word, c :: cs =>
    if c == ';' then (if word.isEmpty then [] else [word.reverse])
    else if isSeparator c then
      (if word.isEmpty then lineWords [] cs else word.reverse :: lineWords [] cs)
    else lineWords (c :: word) cs

/-- The host operations of one line of text: none where it is refused, the empty list for an empty or comment line. -/
def assembleLine (line : List Char) : Option (List HostOp) :=
  match lineWords [] line with
  | [] => some []
  | name :: args => (namedLine (String.ofList name) args).map expand

/-- The host operations of a program, one operation per line (30_encoding.md R98). -/
def assemble (lines : List (List Char)) : Option (List HostOp) :=
  (allSome assembleLine lines).map List.flatten

/-- s with a program as the host's list, at its beginning (log 4). -/
def loadProgram (ops : List HostOp) (s : State) : State := { s with program := ops, opIndex := 0 }

end Sys2Proof.Machine
end

