-- ==== Sys2Proof/Safety.lean ====
section
/-! DEFINITION. What counts as a good state and a good run of PNGCORE, in the terms claims use: the invariant of the
model, the valid stream in OUT, a successful run (45_host_ops.md R240), and the duties of the host (R237), which no rule
checks and a claim of PNG conformance takes as premises. -/

namespace Sys2Proof.Machine

/-- The chunks of a stream, in order, each with its payload. -/
abbrev Chunks := List (Chunk × List Byte)

/-- The signature and then whole frames: what every stream the block builds looks like (43_framer_stream.md R190, R193,
R197 to R200). -/
def streamOf (cs : Chunks) : List Byte := signature ++ cs.flatMap fun c => frame (tag c.1) c.2

/-- The invariant of the model: what holds at power-up and is kept by every step. -/
structure GoodState (s : State) : Prop where
  /-- The parameters are admissible (00_scope.md R5). -/
  params      : s.par.wf
  /-- IN is canonical and lies below IN_CAP (10_state.md R44). -/
  inWf        : Memory.wf s.par.inInit s.inMem
  inBelow     : Memory.below s.par.inCap s.inMem
  /-- OUT is canonical and lies below OUT_CAP (10_state.md R45). -/
  outWf       : Memory.wf s.par.outInit s.outMem
  outBelow    : Memory.below s.par.outCap s.outMem
  /-- S1 < 65521 and S2 < 65521 (10_state.md R43). -/
  sum1        : s.s1.toNat < 65521
  sum2        : s.s2.toNat < 65521
  /-- OUT_LEN ≤ OUT_CAP (10_state.md R41). -/
  outFits     : s.outLen.toNat ≤ s.par.outCap
  /-- No stream before STREAM_NEW (70_reset_and_hazards.md R281), and after it the signature first, then whole frames. -/
  noStream    : s.seq = .start → s.outLen = 0#32
  stream      : s.seq ≠ .start → ∃ cs : Chunks, outBytes s = streamOf cs
  /-- FAULT_CODE and FAULT_INFO are 0 when FAULT = 0, and a recorded fault has a code (10_state.md R26, R28). -/
  noFault     : s.fault = false → s.faultCode = .none ∧ s.faultInfo = 0#32
  hasFault    : s.fault = true → s.faultCode ≠ .none
  /-- The index does not pass the end of the host's list (10_state.md R21). -/
  index       : s.opIndex ≤ s.program.length

/-- A run is successful when it ends with no fault recorded (45_host_ops.md R240). -/
def successful (s : State) : Prop := s.fault = false

/-- The finished stream that the host hands to the sink: SEQ = COMPLETE, FAULT = 0 (45_host_ops.md R238). -/
def finished (s : State) : Prop := s.seq = .complete ∧ s.fault = false

/-- Nothing between the two states touched the stream: the same parameters, SEQ, OUT_LEN and OUT bytes below it. Any other
register, IN, and the host's side may differ. -/
structure SameStream (s t : State) : Prop where
  par    : t.par = s.par
  seq    : t.seq = s.seq
  outLen : t.outLen = s.outLen
  bytes  : outBytes t = outBytes s

/-- The two states differ at most in OUT bytes at and above OUT_LEN, which hold no defined value (10_state.md R45). -/
structure SameButStale (s t : State) : Prop where
  rest  : t = { s with outMem := t.outMem }
  bytes : outBytes t = outBytes s

/-- The byte string f was appended: byte i of it stands at OUT[OUT_LEN + i], OUT_LEN grew by its length, and every other
byte of OUT is as before (00_scope.md R10). -/
structure Appended (f : List Byte) (s t : State) : Prop where
  outLen : t.outLen.toNat = s.outLen.toNat + f.length
  bytes  : ∀ a, outByte t a =
    if s.outLen.toNat ≤ a ∧ a < s.outLen.toNat + f.length then f.getD (a - s.outLen.toNat) 0#8 else outByte s a

/-- The host's next operation writes w to CMD, by any of the offsets that name it (10_state.md R24, R25). -/
def writesCmd (w : Word) (s : State) : Prop :=
  ∃ o : Word, o.toNat < 4 ∧ s.program[s.opIndex]? = some (.regWrite o w)

/-- The words of a format-N command: its OP with OPERAND 0, and no other word with that OP (30_encoding.md R91, R95). -/
def formatNWords (op : Nat) (i : Instr) : Prop :=
  ∀ w : Word, w.toNat / 16777216 = op →
    (w.toNat % 16777216 = 0 → decode w = .command i) ∧
    (w.toNat % 16777216 ≠ 0 → ∃ why, decode w = .illegal why)

/-- The words of a format-B command: its OP with OPERAND bits [23:8] 0, each with its low byte as IMM8, and no other word
with that OP (30_encoding.md R92, R95). -/
def formatBWords (op : Nat) (f : Byte → Instr) : Prop :=
  ∀ w : Word, w.toNat / 16777216 = op →
    (w.toNat / 256 % 65536 = 0 → decode w = .command (f (w.setWidth 8))) ∧
    (w.toNat / 256 % 65536 ≠ 0 → ∃ why, decode w = .illegal why)

/-- The number that bytes spell, most significant first (20_memory.md R68). -/
def bigEndian (bs : List Byte) : Nat := bs.foldl (fun n b => n * 256 + b.toNat) 0

/-- The read-write registers of 10_state.md R23 with the bits that belong to fields (R27, R35, R38, R39). -/
def writableBits : List (Word × Word) :=
  [ (0x08#32, 0x00000001#32), (0x10#32, 0xFFFFFFFF#32), (0x14#32, 0xFFFFFFFF#32), (0x18#32, 0xFFFFFFFF#32),
    (0x28#32, 0x0000003F#32), (0x2C#32, 0xFFFFFFFF#32), (0x30#32, 0xFFFFFFFF#32), (0x34#32, 0xFFFFFFFF#32),
    (0x38#32, 0x000000FF#32) ]

/-- The read-only registers of 10_state.md R23. -/
def readOnlyOffsets : List Word := [0x04#32, 0x0C#32, 0x1C#32, 0x20#32, 0x24#32, 0x3C#32]

/-- The faults a command may raise once its word is legal (60_exceptions.md R251). -/
def mayRaise : Instr → List FaultCode
  | .crcInit => []
  | .crcByte _ => []
  | .crcBlock => [.srcRange]
  | .crcFinal => []
  | .crcOneshot => [.srcRange]
  | .crcTblRead _ => []
  | .adlerInit => []
  | .adlerByte _ => []
  | .adlerBlock => [.srcRange]
  | .adlerFinal => []
  | .adlerOneshot => [.srcRange]
  | .zlibHdr => []
  | .streamNew => []
  | .writeIhdr => [.noSignature, .order, .outOverflow]
  | .writeIdat => [.noSignature, .order, .srcRange, .deflateFail, .outOverflow]
  | .writeIend => [.noSignature, .order, .outOverflow]

/-! Streaming checksums (40_crc.md R124): input handed over in pieces. -/

/-- One piece of streamed input: a byte command, or SRC_ADDR, SRC_LEN and a block command. -/
inductive Feed where
  | byte (b : Byte)
  | block (addr len : Word)
deriving DecidableEq, Repr

/-- The piece lies in IN (20_memory.md R62). -/
def Feed.inRange (s : State) : Feed → Prop
  | .byte _ => True
  | .block a n => a.toNat + n.toNat ≤ s.par.inCap

/-- The bytes of the pieces, in order. -/
def feedBytes (s : State) (fs : List Feed) : List Byte :=
  fs.flatMap fun f =>
    match f with
    | .byte b => [b]
    | .block a n => memReadIn s a.toNat n.toNat

/-- The pieces handed over by the commands with the given byte and block instructions, in order. -/
def feed (byteCmd : Byte → Instr) (blockCmd : Instr) : List Feed → State → Result
  | [], s => .next s
  | .byte b :: fs, s => andThen (exec (byteCmd b) s) (feed byteCmd blockCmd fs)
  | .block a n :: fs, s =>
    andThen (exec blockCmd { s with srcAddr := a, srcLen := n }) (feed byteCmd blockCmd fs)

/-! The duties of the host (45_host_ops.md R237). The tables of PNG are general knowledge (93_implementation_defined.md G5,
G7; log 14). -/

/-- A command of the stream builder. -/
def isStreamCommand : Instr → Bool
  | .streamNew => true
  | .writeIhdr => true
  | .writeIdat => true
  | .writeIend => true
  | .crcInit => false
  | .crcByte _ => false
  | .crcBlock => false
  | .crcFinal => false
  | .crcOneshot => false
  | .crcTblRead _ => false
  | .adlerInit => false
  | .adlerByte _ => false
  | .adlerBlock => false
  | .adlerFinal => false
  | .adlerOneshot => false
  | .zlibHdr => false

/-- The command that an operation issues, if it issues a legal one (45_host_ops.md R232; 30_encoding.md R94). -/
def commandOf : HostOp → Option Instr
  | .regWrite o v => if regAt o = some .cmd then (decode v).instr? else none
  | .reset => none
  | .regRead _ => none
  | .inWrite _ _ => none
  | .inRead _ => none
  | .outRead _ => none

/-- The stream commands of a program are STREAM_NEW, WRITE_IHDR, exactly one WRITE_IDAT, WRITE_IEND, in this order. -/
def orderDuty (ops : List HostOp) : Prop :=
  ((ops.filterMap commandOf).filter isStreamCommand) = [.streamNew, .writeIhdr, .writeIdat, .writeIend]

/-- The (bit depth, colour type) pairs that PNG allows (93_implementation_defined.md G5). -/
def pixelFormatAllowed (depth color : Nat) : Bool :=
  match color with
  | 0 => [1, 2, 4, 8, 16].contains depth
  | 2 => [8, 16].contains depth
  | 3 => [1, 2, 4, 8].contains depth
  | 4 => [8, 16].contains depth
  | 6 => [8, 16].contains depth
  | _ => false

/-- Samples per pixel of a colour type (log 14). -/
def samplesPerPixel (color : Nat) : Nat :=
  match color with
  | 2 => 3
  | 4 => 2
  | 6 => 4
  | _ => 1

/-- Bytes of one scanline's pixels, rounded up; 50 for 400 pixels at depth 1 (90_conflicts.md C2; log 14). -/
def scanlineBytes (width depth color : Nat) : Nat := (width * samplesPerPixel color * depth + 7) / 8

/-- The header duties at WRITE_IHDR. -/
structure HeaderDuty (s : State) : Prop where
  width       : s.ihdrWidth ≠ 0#32
  height      : s.ihdrHeight ≠ 0#32
  compression : s.compression = 0#8
  filter      : s.filter = 0#8
  interlace   : s.interlace = 0#8
  format      : pixelFormatAllowed s.bitDepth.toNat s.colorType.toNat = true

/-- The scanline duty at WRITE_IDAT: IHDR_HEIGHT scanlines, each a filter-type byte (0 to 4, G7) and the pixel bytes. -/
structure ScanlineDuty (s : State) (raw : List Byte) : Prop where
  size : raw.length =
    s.ihdrHeight.toNat * (1 + scanlineBytes s.ihdrWidth.toNat s.bitDepth.toNat s.colorType.toNat)
  filterTypes : ∀ y < s.ihdrHeight.toNat,
    (raw.getD (y * (1 + scanlineBytes s.ihdrWidth.toNat s.bitDepth.toNat s.colorType.toNat)) 0#8).toNat ≤ 4

/-- DEFLATE_VALID for a given raw-DEFLATE decompressor: a claim that IDAT decodes to the raw bytes takes it as a premise
(93_implementation_defined.md U4). -/
def DeflateValid (p : Params) (inflate : List Byte → Option (List Byte)) : Prop :=
  ∀ level raw c, deflate p level raw = .ok c → inflate c = some raw

end Sys2Proof.Machine
end

