-- ==== Sys2Proof/Certificates/Slice0/Obligations.lean ====
section
/-! DEFINITION. The statements for the provers, file by file of spec/. A number stands for the spec's own literal.
"log <n>" names a choice of the model, which no rule of the spec makes. -/

open Sys2Proof Sys2Proof.Machine

/-! ### Encoding (30_encoding.md) -/

/-- Decode and encode agree both ways: each word means at most one command, and no bit of a command's word is dropped. -/
def Obligations.DecodeInvertsEncode : Prop :=
  ∀ (w : Word) (i : Instr), decode w = .command i ↔ w = encode i

/-- A few words written out from the opcode map of R93. -/
def Obligations.KnownWordsDecode : Prop :=
  decode 0x02000049#32 = .command (.crcByte 0x49#8) ∧
  decode 0x060000FF#32 = .command (.crcTblRead 0xFF#8) ∧
  decode 0x110000FF#32 = .command (.adlerByte 0xFF#8) ∧
  decode 0x14000000#32 = .command .adlerOneshot ∧
  decode 0x20000000#32 = .command .zlibHdr ∧
  decode 0x32000000#32 = .command .writeIdat ∧
  decode 0x01000001#32 = .illegal .operandBits ∧
  decode 0x07000000#32 = .illegal .unassignedOp

/-- R95: the words whose OP is none of the sixteen, or whose OPERAND has a bit the format requires to be 0, are exactly
the illegal ones, and issuing one records ILLEGAL_CMD with the word and does nothing else. -/
def Obligations.IllegalWordsFault : Prop :=
  (∀ w : Word,
    (∃ why, decode w = .illegal why) ↔
      (w.toNat / 16777216 ∉ [1, 2, 3, 4, 5, 6, 16, 17, 18, 19, 20, 32, 48, 49, 50, 51] ∨
        (w.toNat / 16777216 ∈ [2, 6, 17] ∧ w.toNat % 16777216 / 256 ≠ 0) ∨
        (w.toNat / 16777216 ∈ [1, 3, 4, 5, 16, 18, 19, 20, 32, 48, 49, 50, 51] ∧ w.toNat % 16777216 ≠ 0))) ∧
  (∀ (w : Word) (s : State), writesCmd w s → s.fault = false → (∃ why, decode w = .illegal why) →
    step s = .next { s with
      fault := true, faultCode := .illegalCmd, faultInfo := w, opIndex := s.opIndex + 1 })

/-! ### Steps (10_state.md R21, 45_host_ops.md R230) -/

/-- When the host's next operation writes a legal command word to CMD and no fault is recorded, the step is the command's
meaning, and then the index moves to the following operation. -/
def Obligations.StepRunsDecodedCommand : Prop :=
  ∀ (s : State) (w : Word) (i : Instr), writesCmd w s → s.fault = false → decode w = .command i →
    step s = onNext (fun t => { t with opIndex := t.opIndex + 1 }) (exec i s)

/-- The model's own way to place a command (log 4): the very next step runs it. -/
def Obligations.PlacedWordRunsNext : Prop :=
  ∀ (s : State) (w : Word) (i : Instr), s.fault = false → decode w = .command i →
    step (s.withFetchWord 32 w.toNat) =
      onNext (fun t => { t with opIndex := t.opIndex + 1 }) (exec i (s.withFetchWord 32 w.toNat))

/-- R21: every operation of the host's list completes in one step and is followed by the next one; no step changes the
list, and none stops the machine. -/
def Obligations.EveryOperationCompletesInOrder : Prop :=
  ∀ (s : State) (op : HostOp), s.program[s.opIndex]? = some op →
    ∃ t, step s = .next t ∧ t.opIndex = s.opIndex + 1 ∧ t.program = s.program

/-- No step changes the parameters (the model holds them in State, log 1). -/
def Obligations.ParametersNeverChange : Prop := ∀ s t : State, step s = .next t → t.par = s.par

/-- With the list exhausted a step changes nothing (the model's choice, log 5). -/
def Obligations.ExhaustedListIdles : Prop :=
  ∀ s : State, s.program[s.opIndex]? = none → step s = .next s

/-! ### Reset (10_state.md R48, 45_host_ops.md R231) -/

/-- R231: RESET gives every register its reset value, leaves IN and OUT alone, and is the only operation that clears a
recorded fault. -/
def Obligations.ResetRestoresRegisters : Prop :=
  (∀ s : State, s.program[s.opIndex]? = some .reset →
    ∃ t, step s = .next t ∧
      (t.strict = false ∧ t.srcAddr = 0#32 ∧ t.srcLen = 0#32 ∧ t.crcAcc = 0xFFFFFFFF#32 ∧ t.s1 = 1#16 ∧ t.s2 = 0#16 ∧
        t.result = 0#32 ∧ t.cinfo = 6#4 ∧ t.level = 2#2) ∧
      (t.ihdrWidth = 0#32 ∧ t.ihdrHeight = 0#32 ∧ t.bitDepth = 0#8 ∧ t.colorType = 0#8 ∧ t.compression = 0#8 ∧
        t.filter = 0#8 ∧ t.interlace = 0#8) ∧
      (t.seq = .start ∧ t.fault = false ∧ t.faultCode = .none ∧ t.faultInfo = 0#32 ∧ t.outLen = 0#32) ∧
      (∀ a, inByte t a = inByte s a) ∧ (∀ a, outByte t a = outByte s a)) ∧
  (∀ s t : State, step s = .next t → s.fault = true → t.fault = false → s.program[s.opIndex]? = some .reset)

/-- What every register reads at power-up (R23's reset column, R48). -/
def Obligations.PowerUpRegisterValues : Prop :=
  [0x00#32, 0x04#32, 0x08#32, 0x0C#32, 0x10#32, 0x14#32, 0x18#32, 0x1C#32].map (regRead State.reset) =
    [0#32, 0#32, 0#32, 0#32, 0#32, 0#32, 0xFFFFFFFF#32, 0x00000001#32] ∧
  [0x20#32, 0x24#32, 0x28#32, 0x2C#32, 0x30#32, 0x34#32, 0x38#32, 0x3C#32].map (regRead State.reset) =
    [0x504E4701#32, 0#32, 0x00000026#32, 0#32, 0#32, 0#32, 0#32, 0#32]

/-- The invariant holds at power-up, whatever the instance's parameters are. -/
def Obligations.PowerUpMeetsInvariant : Prop := GoodState State.reset

/-- The invariant is kept by every step from every state that meets it: canonical memories within their bounds, sums below
65521 (R43), OUT_LEN within OUT_CAP (R41), the stream in OUT the signature and then whole frames, a clean fault record,
the host's index within its list (log 4). -/
def Obligations.StepKeepsInvariant : Prop :=
  ∀ s t : State, GoodState s → step s = .next t → GoodState t

/-! ### Faults (60_exceptions.md) -/

/-- R254: a command that raises a fault changes the fault record and nothing else. -/
def Obligations.FaultsArePrecise : Prop :=
  ∀ s t : State, step s = .next t → s.fault = false → t.fault = true →
    t.faultCode ≠ .none ∧
    t = { s with fault := true, faultCode := t.faultCode, faultInfo := t.faultInfo, opIndex := s.opIndex + 1 }

/-- R255: while FAULT = 1 a CMD write changes nothing; register writes other than to CMD, IN writes and reads still take
effect. What a read returns to the host stands in readLog (log 6). -/
def Obligations.FaultedBlockDiscardsCommands : Prop :=
  ∀ s : State, s.fault = true →
    (∀ w, writesCmd w s → step s = .next { s with opIndex := s.opIndex + 1 }) ∧
    (∀ o v m, (o &&& 0x3C#32, m) ∈ writableBits → o.toNat < 0x40 → s.program[s.opIndex]? = some (.regWrite o v) →
      ∃ t, step s = .next t ∧ regRead t o = v &&& m) ∧
    (∀ a b, s.program[s.opIndex]? = some (.inWrite a b) → a.toNat < s.par.inCap →
      ∃ t, step s = .next t ∧ inByte t a.toNat = b) ∧
    (∀ o, s.program[s.opIndex]? = some (.regRead o) →
      ∃ t, step s = .next t ∧ t.readLog = s.readLog ++ [.word (regRead s o)]) ∧
    (∀ a, s.program[s.opIndex]? = some (.inRead a) → a.toNat < s.par.inCap →
      ∃ t, step s = .next t ∧ t.readLog = s.readLog ++ [.byte (inByte s a.toNat)]) ∧
    (∀ a, s.program[s.opIndex]? = some (.outRead a) → a.toNat < s.outLen.toNat →
      ∃ t, step s = .next t ∧ t.readLog = s.readLog ++ [.byte (outByte s a.toNat)])

/-- The first fault is kept: until RESET no step changes FAULT, FAULT_CODE or FAULT_INFO (R255, R257, R258). -/
def Obligations.FirstFaultIsKept : Prop :=
  ∀ s t : State, s.fault = true → s.program[s.opIndex]? ≠ some .reset → step s = .next t →
    t.fault = true ∧ t.faultCode = s.faultCode ∧ t.faultInfo = s.faultInfo

/-- R253: FAULT_INFO receives the compressor's error value for DEFLATE_FAIL and the command word for every other fault. -/
def Obligations.FaultInfoIsWordOrCompressorError : Prop :=
  ∀ s t : State, step s = .next t → s.fault = false → t.fault = true →
    ∃ w, writesCmd w s ∧
      (t.faultCode ≠ .deflateFail → t.faultInfo = w) ∧
      (t.faultCode = .deflateFail → w = 0x32000000#32 ∧ deflate s.par s.level (blockBytes s) = .err t.faultInfo)

/-- R251: which faults a legal command can raise, and that a checksum command on an input range inside IN raises none. -/
def Obligations.CommandsRaiseOnlyTheirFaults : Prop :=
  (∀ (i : Instr) (s t : State), s.fault = false → exec i s = .next t → t.fault = true → t.faultCode ∈ mayRaise i) ∧
  (∀ (i : Instr) (s t : State), s.fault = false → isStreamCommand i = false →
    s.srcAddr.toNat + s.srcLen.toNat ≤ s.par.inCap → exec i s = .next t → t.fault = false)

/-! ### Block input (20_memory.md) -/

/-- R62: the range check in unbounded arithmetic. Out of range, every block command records SRC_RANGE with its word
(WRITE_IDAT once it is admitted, R195), also for SRC_LEN = 0 above IN_CAP; in range no SRC_RANGE is recorded, also for
SRC_LEN = 0 at IN_CAP, where the input is empty. -/
def Obligations.BlockRangeCheck : Prop :=
  ∀ (s : State) (i : Instr) (w : Word),
    (i, w) ∈ [(Instr.crcBlock, 0x03000000#32), (Instr.crcOneshot, 0x05000000#32), (Instr.adlerBlock, 0x12000000#32),
      (Instr.adlerOneshot, 0x14000000#32), (Instr.writeIdat, 0x32000000#32)] →
    (i = .writeIdat → s.seq ≠ .start ∧ (s.strict = true → s.seq = .haveHeader ∨ s.seq = .haveData)) →
    (s.par.inCap < s.srcAddr.toNat + s.srcLen.toNat →
      exec i s = .next { s with fault := true, faultCode := .srcRange, faultInfo := w }) ∧
    (s.srcAddr.toNat + s.srcLen.toNat ≤ s.par.inCap → s.fault = false → s.faultCode = .none →
      ∃ t, exec i s = .next t ∧ t.faultCode ≠ .srcRange ∧ (i ≠ .writeIdat → t.fault = false)) ∧
    (s.srcLen = 0#32 → blockBytes s = [] ∧
      (s.srcAddr.toNat + s.srcLen.toNat ≤ s.par.inCap ↔ s.srcAddr.toNat ≤ s.par.inCap))

/-! ### CRC-32 engine (40_crc.md) -/

/-- R125. -/
def Obligations.CrcInitSetsAccumulator : Prop :=
  formatNWords 0x01 .crcInit ∧
  ∀ s : State, exec .crcInit s = .next { s with crcAcc := 0xFFFFFFFF#32 }

/-- R126, with CRC_STEP written out (R122). -/
def Obligations.CrcByteStepsAccumulator : Prop :=
  formatBWords 0x02 .crcByte ∧
  ∀ (b : Byte) (s : State), exec (.crcByte b) s = .next { s with
    crcAcc := crcTable (((s.crcAcc ^^^ b.setWidth 32) &&& 0xFF#32).setWidth 8) ^^^ (s.crcAcc >>> 8) }

/-- R127: in range, CRC_ACC runs through the block's bytes in ascending order and nothing else changes; out of range,
SRC_RANGE. -/
def Obligations.CrcBlockRunsOverInput : Prop :=
  formatNWords 0x03 .crcBlock ∧
  ∀ (s : State) (d : List Byte), d.length = s.srcLen.toNat →
    (∀ i (h : i < d.length), d[i] = inByte s (s.srcAddr.toNat + i)) →
    (s.srcAddr.toNat + s.srcLen.toNat ≤ s.par.inCap →
      exec .crcBlock s = .next { s with crcAcc := d.foldl crcStep s.crcAcc }) ∧
    (s.par.inCap < s.srcAddr.toNat + s.srcLen.toNat →
      exec .crcBlock s = .next { s with fault := true, faultCode := .srcRange, faultInfo := 0x03000000#32 })

/-- R128. -/
def Obligations.CrcFinalInvertsAccumulator : Prop :=
  formatNWords 0x04 .crcFinal ∧
  ∀ s : State, exec .crcFinal s = .next { s with result := s.crcAcc ^^^ 0xFFFFFFFF#32 }

/-- R129: RESULT takes the CRC of the block, whatever CRC_ACC holds, and nothing else changes; out of range, SRC_RANGE. -/
def Obligations.CrcOneshotChecksumsInput : Prop :=
  formatNWords 0x05 .crcOneshot ∧
  ∀ (s : State) (d : List Byte), d.length = s.srcLen.toNat →
    (∀ i (h : i < d.length), d[i] = inByte s (s.srcAddr.toNat + i)) →
    (s.srcAddr.toNat + s.srcLen.toNat ≤ s.par.inCap →
      exec .crcOneshot s = .next { s with result := d.foldl crcStep 0xFFFFFFFF#32 ^^^ 0xFFFFFFFF#32 }) ∧
    (s.par.inCap < s.srcAddr.toNat + s.srcLen.toNat →
      exec .crcOneshot s = .next { s with fault := true, faultCode := .srcRange, faultInfo := 0x05000000#32 })

/-- R130, with T as R121 lists it: the generated ROM holds the 256 listed entries. -/
def Obligations.CrcTblReadGivesListedEntry : Prop :=
  formatBWords 0x06 .crcTblRead ∧
  crcRom.length = 256 ∧ (∀ n : Byte, crcTable n = crcRom.getD n.toNat 0#32) ∧
  ∀ (n : Byte) (s : State), exec (.crcTblRead n) s = .next { s with result := crcRom.getD n.toNat 0#32 }

/-- The table step is eight bit-serial rounds on the accumulator with the byte added in: the table changes nothing about
which polynomial division is computed. -/
def Obligations.TableStepIsBitSerial : Prop :=
  ∀ (a : Word) (b : Byte), crcStep a b = crcRounds 8 (a ^^^ b.setWidth 32)

/-- R124: CRC_INIT, any split of the input over CRC_BYTE and CRC_BLOCK, and CRC_FINAL give the CRC of the whole input. -/
def Obligations.StreamedCrcIsOneshotCrc : Prop :=
  (∀ (a : Word) (x y : List Byte), crcUpd (crcUpd a x) y = crcUpd a (x ++ y)) ∧
  ∀ (s : State) (fs : List Feed), (∀ f ∈ fs, f.inRange s) →
    ∃ t, andThen (andThen (exec .crcInit s) (feed .crcByte .crcBlock fs)) (exec .crcFinal) = .next t ∧
      t.result = crc32 (feedBytes s fs)

/-! ### Adler-32 unit (41_adler.md) -/

/-- R152. -/
def Obligations.AdlerInitSetsSums : Prop :=
  formatNWords 0x10 .adlerInit ∧
  ∀ s : State, exec .adlerInit s = .next { s with s1 := 1#16, s2 := 0#16 }

/-- R153, with ADLER_STEP in integers (R150): S1 first, then S2 with the new S1, both modulo 65521. -/
def Obligations.AdlerByteStepsSums : Prop :=
  formatBWords 0x11 .adlerByte ∧
  ∀ (b : Byte) (s : State), ∃ t, exec (.adlerByte b) s = .next t ∧
    t.s1.toNat = (s.s1.toNat + b.toNat) % 65521 ∧
    t.s2.toNat = (s.s2.toNat + t.s1.toNat) % 65521 ∧
    t = { s with s1 := t.s1, s2 := t.s2 }

/-- R154: the sums run through the block's bytes in ascending order and nothing else changes; out of range, SRC_RANGE. -/
def Obligations.AdlerBlockRunsOverInput : Prop :=
  formatNWords 0x12 .adlerBlock ∧
  ∀ (s : State) (d : List Byte), d.length = s.srcLen.toNat →
    (∀ i (h : i < d.length), d[i] = inByte s (s.srcAddr.toNat + i)) →
    (s.srcAddr.toNat + s.srcLen.toNat ≤ s.par.inCap →
      exec .adlerBlock s = .next { s with
        s1 := (d.foldl adlerStep (s.s1, s.s2)).1, s2 := (d.foldl adlerStep (s.s1, s.s2)).2 }) ∧
    (s.par.inCap < s.srcAddr.toNat + s.srcLen.toNat →
      exec .adlerBlock s = .next { s with fault := true, faultCode := .srcRange, faultInfo := 0x12000000#32 })

/-- R155: RESULT takes S2 * 65536 + S1, which is what the ADLER register reads, and the sums stay. -/
def Obligations.AdlerFinalReportsSums : Prop :=
  formatNWords 0x13 .adlerFinal ∧
  ∀ s : State, ∃ t, exec .adlerFinal s = .next t ∧
    t.result.toNat = s.s2.toNat * 65536 + s.s1.toNat ∧ t.result = regRead s 0x1C#32 ∧
    t = { s with result := t.result }

/-- R156: RESULT takes the Adler-32 of the block, whatever S1 and S2 hold; out of range, SRC_RANGE. -/
def Obligations.AdlerOneshotChecksumsInput : Prop :=
  formatNWords 0x14 .adlerOneshot ∧
  ∀ (s : State) (d : List Byte), d.length = s.srcLen.toNat →
    (∀ i (h : i < d.length), d[i] = inByte s (s.srcAddr.toNat + i)) →
    (s.srcAddr.toNat + s.srcLen.toNat ≤ s.par.inCap →
      ∃ t, exec .adlerOneshot s = .next t ∧
        t.result.toNat = (d.foldl adlerStep (1#16, 0#16)).2.toNat * 65536 + (d.foldl adlerStep (1#16, 0#16)).1.toNat ∧
        t = { s with result := t.result }) ∧
    (s.par.inCap < s.srcAddr.toNat + s.srcLen.toNat →
      exec .adlerOneshot s = .next { s with fault := true, faultCode := .srcRange, faultInfo := 0x14000000#32 })

/-- The streaming law for Adler-32: ADLER_INIT, any split over ADLER_BYTE and ADLER_BLOCK, and ADLER_FINAL give the
Adler-32 of the whole input. -/
def Obligations.StreamedAdlerIsOneshotAdler : Prop :=
  ∀ (s : State) (fs : List Feed), (∀ f ∈ fs, f.inRange s) →
    ∃ t, andThen (andThen (exec .adlerInit s) (feed .adlerByte .adlerBlock fs)) (exec .adlerFinal) = .next t ∧
      t.result = adler32 (feedBytes s fs)

/-- R150's last sentence: sums that are never reduced, taken modulo 65521 at the end, give the same values. -/
def Obligations.AdlerAgreesWithUnreducedSums : Prop :=
  ∀ (p : BitVec 16 × BitVec 16) (d : List Byte), p.1.toNat < 65521 → p.2.toNat < 65521 →
    (adlerUpd p d).1.toNat =
      (d.foldl (fun q b => (q.1 + b.toNat, q.2 + (q.1 + b.toNat))) (p.1.toNat, p.2.toNat)).1 % 65521 ∧
    (adlerUpd p d).2.toNat =
      (d.foldl (fun q b => (q.1 + b.toNat, q.2 + (q.1 + b.toNat))) (p.1.toNat, p.2.toNat)).2 % 65521

/-! ### Zlib envelope builder (42_zlib.md) -/

/-- R177, with CMF, FLG_BASE and FCHECK in integers (R170 to R172): v + 31 − (v mod 31). -/
def Obligations.ZlibHdrReportsHeader : Prop :=
  formatNWords 0x20 .zlibHdr ∧
  ∀ s : State, ∃ t, exec .zlibHdr s = .next t ∧
    t.result.toNat = (s.cinfo.toNat * 16 + 8) * 256 + s.level.toNat * 64 +
      (31 - ((s.cinfo.toNat * 16 + 8) * 256 + s.level.toNat * 64) % 31) ∧
    t = { s with result := t.result }

/-- R173: every header is a multiple of 31 as a 16-bit big-endian value. -/
def Obligations.HeaderIsMultipleOf31 : Prop :=
  ∀ (cinfo : BitVec 4) (level : BitVec 2), ((cmf cinfo).toNat * 256 + (flg cinfo level).toNat) % 31 = 0

/-! ### Chunk framer and stream builder (43_framer_stream.md) -/

/-- R191: a frame parses back to its length, tag, payload and CRC. A payload that fits the length field is assumed. -/
def Obligations.FrameRoundTrip : Prop :=
  ∀ tg payload : List Byte, tg.length = 4 → payload.length < 4294967296 →
    bigEndian ((frame tg payload).take 4) = payload.length ∧
    ((frame tg payload).drop 4).take 4 = tg ∧
    ((frame tg payload).drop 8).take payload.length = payload ∧
    (frame tg payload).length = 12 + payload.length ∧
    bigEndian ((frame tg payload).drop (8 + payload.length)) =
      (crc32 (((frame tg payload).drop 4).take (4 + payload.length))).toNat

/-- R197: STREAM_NEW in every state: the signature at OUT[0..8), OUT_LEN 8, SEQ HAVE_SIGNATURE, nothing else. -/
def Obligations.StreamNewWritesSignature : Prop :=
  formatNWords 0x30 .streamNew ∧
  ∀ s : State, ∃ t, exec .streamNew s = .next t ∧
    t = { s with outMem := t.outMem, outLen := 8#32, seq := .haveSignature } ∧
    outBytes t = [0x89#8, 0x50#8, 0x4E#8, 0x47#8, 0x0D#8, 0x0A#8, 0x1A#8, 0x0A#8] ∧
    (∀ a, 8 ≤ a → outByte t a = outByte s a) ∧ (∀ a, inByte t a = inByte s a)

/-- R198: WRITE_IHDR appends its 25 bytes, or records the first of NO_SIGNATURE, ORDER, OUT_OVERFLOW that applies. -/
def Obligations.WriteIhdrAppendsHeader : Prop :=
  formatNWords 0x31 .writeIhdr ∧
  ∀ (s : State) (p : List Byte), s.par.wf →
    p = be32 s.ihdrWidth ++ be32 s.ihdrHeight ++
      [s.bitDepth, s.colorType, s.compression, s.filter, s.interlace] →
    (s.seq = .start →
      exec .writeIhdr s = .next { s with fault := true, faultCode := .noSignature, faultInfo := 0x31000000#32 }) ∧
    (s.seq ≠ .start → s.strict = true → s.seq ≠ .haveSignature →
      exec .writeIhdr s = .next { s with fault := true, faultCode := .order, faultInfo := 0x31000000#32 }) ∧
    (s.seq ≠ .start → (s.strict = true → s.seq = .haveSignature) → s.par.outCap < s.outLen.toNat + 25 →
      exec .writeIhdr s = .next { s with fault := true, faultCode := .outOverflow, faultInfo := 0x31000000#32 }) ∧
    (s.seq ≠ .start → (s.strict = true → s.seq = .haveSignature) → s.outLen.toNat + 25 ≤ s.par.outCap →
      ∃ t, exec .writeIhdr s = .next t ∧
        t.result = crc32 ([0x49#8, 0x48#8, 0x44#8, 0x52#8] ++ p) ∧
        Appended ([0x00#8, 0x00#8, 0x00#8, 0x0D#8, 0x49#8, 0x48#8, 0x44#8, 0x52#8] ++ p ++ be32 t.result) s t ∧
        (∀ a, inByte t a = inByte s a) ∧
        t = { s with outMem := t.outMem, outLen := t.outLen, seq := .haveHeader, result := t.result })

/-- R199: WRITE_IDAT wraps the raw bytes once and appends the frame, or records the first of NO_SIGNATURE, ORDER,
SRC_RANGE, DEFLATE_FAIL, OUT_OVERFLOW that applies. -/
def Obligations.WriteIdatAppendsEnvelope : Prop :=
  formatNWords 0x32 .writeIdat ∧
  ∀ (s : State) (raw : List Byte), s.par.wf → raw.length = s.srcLen.toNat →
    (∀ i (h : i < raw.length), raw[i] = inByte s (s.srcAddr.toNat + i)) →
    (s.seq = .start →
      exec .writeIdat s = .next { s with fault := true, faultCode := .noSignature, faultInfo := 0x32000000#32 }) ∧
    (s.seq ≠ .start → s.strict = true → s.seq ≠ .haveHeader → s.seq ≠ .haveData →
      exec .writeIdat s = .next { s with fault := true, faultCode := .order, faultInfo := 0x32000000#32 }) ∧
    (s.seq ≠ .start → (s.strict = true → s.seq = .haveHeader ∨ s.seq = .haveData) →
      (s.par.inCap < s.srcAddr.toNat + s.srcLen.toNat →
        exec .writeIdat s = .next { s with fault := true, faultCode := .srcRange, faultInfo := 0x32000000#32 }) ∧
      (s.srcAddr.toNat + s.srcLen.toNat ≤ s.par.inCap →
        (∀ e, deflate s.par s.level raw = .err e →
          exec .writeIdat s = .next { s with fault := true, faultCode := .deflateFail, faultInfo := e }) ∧
        (∀ c, deflate s.par s.level raw = .ok c →
          (s.par.outCap < s.outLen.toNat + (18 + c.length) →
            exec .writeIdat s = .next { s with fault := true, faultCode := .outOverflow, faultInfo := 0x32000000#32 }) ∧
          (s.outLen.toNat + (18 + c.length) ≤ s.par.outCap →
            ∃ t, exec .writeIdat s = .next t ∧
              t.result = crc32 ([0x49#8, 0x44#8, 0x41#8, 0x54#8] ++
                ([cmf s.cinfo, flg s.cinfo s.level] ++ c ++ be32 (adler32 raw))) ∧
              Appended (be32 (BitVec.ofNat 32 (6 + c.length)) ++ [0x49#8, 0x44#8, 0x41#8, 0x54#8] ++
                ([cmf s.cinfo, flg s.cinfo s.level] ++ c ++ be32 (adler32 raw)) ++ be32 t.result) s t ∧
              (∀ a, inByte t a = inByte s a) ∧
              t = { s with outMem := t.outMem, outLen := t.outLen, seq := .haveData, result := t.result }))))

/-- R200: WRITE_IEND appends its twelve bytes, or records the first of NO_SIGNATURE, ORDER, OUT_OVERFLOW that applies. -/
def Obligations.WriteIendAppendsTrailer : Prop :=
  formatNWords 0x33 .writeIend ∧
  ∀ s : State, s.par.wf →
    (s.seq = .start →
      exec .writeIend s = .next { s with fault := true, faultCode := .noSignature, faultInfo := 0x33000000#32 }) ∧
    (s.seq ≠ .start → s.strict = true → s.seq ≠ .haveHeader → s.seq ≠ .haveData →
      exec .writeIend s = .next { s with fault := true, faultCode := .order, faultInfo := 0x33000000#32 }) ∧
    (s.seq ≠ .start → (s.strict = true → s.seq = .haveHeader ∨ s.seq = .haveData) →
      (s.par.outCap < s.outLen.toNat + 12 →
        exec .writeIend s = .next { s with fault := true, faultCode := .outOverflow, faultInfo := 0x33000000#32 }) ∧
      (s.outLen.toNat + 12 ≤ s.par.outCap →
        ∃ t, exec .writeIend s = .next t ∧
          Appended [0x00#8, 0x00#8, 0x00#8, 0x00#8, 0x49#8, 0x45#8, 0x4E#8, 0x44#8, 0xAE#8, 0x42#8, 0x60#8, 0x82#8] s t ∧
          (∀ a, inByte t a = inByte s a) ∧
          t = { s with outMem := t.outMem, outLen := t.outLen, seq := .complete, result := 0xAE426082#32 }))

/-- R196: a command that completes without a fault sets SEQ by its kind; every other command and every faulting command
leaves it. -/
def Obligations.SequencerNextState : Prop :=
  ∀ (i : Instr) (s t : State), s.fault = false → exec i s = .next t →
    (t.fault = true → t.seq = s.seq) ∧
    (t.fault = false →
      (i = .streamNew → t.seq = .haveSignature) ∧ (i = .writeIhdr → t.seq = .haveHeader) ∧
      (i = .writeIdat → t.seq = .haveData) ∧ (i = .writeIend → t.seq = .complete) ∧
      (isStreamCommand i = false → t.seq = s.seq))

/-- An operation that is neither RESET nor a stream command leaves the stream and the sequencer alone. -/
def Obligations.OtherOperationsKeepStream : Prop :=
  ∀ (s t : State) (op : HostOp), s.program[s.opIndex]? = some op → op ≠ .reset →
    (∀ i, commandOf op = some i → isStreamCommand i = false) → step s = .next t → SameStream s t

/-- R201: STREAM_NEW, WRITE_IHDR, WRITE_IDAT, WRITE_IEND in that order with no fault, and between them nothing that
touches the stream, leave exactly the signature and the three frames in OUT, and SEQ = COMPLETE. -/
def Obligations.CompleteStream : Prop :=
  ∀ s a a' b b' c c' d : State, s.par.wf →
    exec .streamNew s = .next a → SameStream a a' →
    exec .writeIhdr a' = .next b → b.fault = false → SameStream b b' →
    exec .writeIdat b' = .next c → c.fault = false → SameStream c c' →
    exec .writeIend c' = .next d → d.fault = false →
    ∃ z, deflate b'.par b'.level (blockBytes b') = .ok z ∧
      outBytes d = signature ++ frame (tag .ihdr) (ihdrPayload a') ++
        frame (tag .idat) ([cmf b'.cinfo, flg b'.cinfo b'.level] ++ z ++ be32 (adler32 (blockBytes b'))) ++
        frame (tag .iend) [] ∧
      d.outLen.toNat = 8 + 25 + (12 + 2 + z.length + 4) + 12 ∧
      d.seq = .complete

/-- OUT is append-only: no command but STREAM_NEW moves OUT_LEN down or changes a byte below it. -/
def Obligations.OutIsAppendOnly : Prop :=
  ∀ (i : Instr) (s t : State), s.par.wf → exec i s = .next t → i ≠ .streamNew →
    s.outLen.toNat ≤ t.outLen.toNat ∧ ∀ a < s.outLen.toNat, outByte t a = outByte s a

/-! ### Who writes what (10_state.md) -/

/-- No command writes IN, SRC_ADDR, SRC_LEN, CTRL, ZCFG or an IHDR register. -/
def Obligations.CommandsLeaveInputAndConfiguration : Prop :=
  ∀ (i : Instr) (s t : State), exec i s = .next t →
    (∀ a, inByte t a = inByte s a) ∧ t.srcAddr = s.srcAddr ∧ t.srcLen = s.srcLen ∧ t.strict = s.strict ∧
    t.cinfo = s.cinfo ∧ t.level = s.level ∧ t.ihdrWidth = s.ihdrWidth ∧ t.ihdrHeight = s.ihdrHeight ∧
    t.bitDepth = s.bitDepth ∧ t.colorType = s.colorType ∧ t.compression = s.compression ∧ t.filter = s.filter ∧
    t.interlace = s.interlace

/-- CRC_ACC, ADLER and RESULT are written by the commands the spec lists and by no other. -/
def Obligations.ChecksumRegistersHaveTheirWriters : Prop :=
  ∀ (i : Instr) (s t : State), exec i s = .next t →
    (i ≠ .crcInit → (∀ b, i ≠ .crcByte b) → i ≠ .crcBlock → t.crcAcc = s.crcAcc) ∧
    (i ≠ .adlerInit → (∀ b, i ≠ .adlerByte b) → i ≠ .adlerBlock → t.s1 = s.s1 ∧ t.s2 = s.s2) ∧
    (i ≠ .crcFinal → i ≠ .crcOneshot → (∀ b, i ≠ .crcTblRead b) → i ≠ .adlerFinal → i ≠ .adlerOneshot →
      i ≠ .zlibHdr → i ≠ .writeIhdr → i ≠ .writeIdat → i ≠ .writeIend → t.result = s.result)

/-- R284: in every sequencer state the checksum commands, and ZLIB_HDR, leave SEQ, OUT and OUT_LEN alone: every byte of
OUT and of IN reads as before. -/
def Obligations.ChecksumCommandsLeaveStream : Prop :=
  ∀ (i : Instr) (s t : State), isStreamCommand i = false → exec i s = .next t →
    t.seq = s.seq ∧ t.outLen = s.outLen ∧ (∀ a, outByte t a = outByte s a) ∧ (∀ a, inByte t a = inByte s a)

/-! ### Host operations (45_host_ops.md) -/

/-- R232: a register write stores the bits of the register's fields and no others; a read-only register and an offset at or
above 0x40 are not affected; a write to CMD issues the word. -/
def Obligations.RegisterWrite : Prop :=
  ∀ (s : State) (o v : Word), s.program[s.opIndex]? = some (.regWrite o v) →
    (o.toNat < 4 → step s = onNext (fun t => { t with opIndex := t.opIndex + 1 }) (issueCommand v s)) ∧
    (0x40 ≤ o.toNat ∨ o.toNat < 0x40 ∧ o &&& 0x3C#32 ∈ readOnlyOffsets →
      step s = .next { s with opIndex := s.opIndex + 1 }) ∧
    (∀ m, o.toNat < 0x40 → (o &&& 0x3C#32, m) ∈ writableBits →
      ∃ t, step s = .next t ∧ regRead t o = v &&& m ∧
        (∀ x, o &&& 0x3C#32 ≠ x &&& 0x3C#32 → regRead t x = regRead s x) ∧
        (∀ a, inByte t a = inByte s a) ∧ (∀ a, outByte t a = outByte s a))

/-- R233: what a register read returns, field by field, and that it changes nothing. What a read returns to the host
stands in readLog (log 6). -/
def Obligations.RegisterRead : Prop :=
  (∀ (s : State) (o : Word), s.program[s.opIndex]? = some (.regRead o) →
    step s = .next { s with readLog := s.readLog ++ [.word (regRead s o)], opIndex := s.opIndex + 1 }) ∧
  (∀ (s : State) (o : Word), 0x40 ≤ o.toNat → regRead s o = 0#32) ∧
  (∀ (s : State) (o : Word), o.toNat < 0x40 → regRead s o = regRead s (o &&& 0x3C#32)) ∧
  (∀ s : State,
    regRead s 0x00#32 = 0#32 ∧
    (regRead s 0x04#32).toNat =
      (match s.faultCode with
        | .none => 0 | .illegalCmd => 1 | .noSignature => 2 | .order => 3 | .srcRange => 4 | .deflateFail => 5
        | .outOverflow => 6) * 256 +
      (if s.fault then 8 else 0) +
      (match s.seq with
        | .start => 0 | .haveSignature => 1 | .haveHeader => 2 | .haveData => 3 | .complete => 4) ∧
    (regRead s 0x08#32).toNat = (if s.strict then 1 else 0) ∧
    regRead s 0x0C#32 = s.faultInfo ∧ regRead s 0x10#32 = s.srcAddr ∧ regRead s 0x14#32 = s.srcLen ∧
    regRead s 0x18#32 = s.crcAcc ∧
    (regRead s 0x1C#32).toNat = s.s2.toNat * 65536 + s.s1.toNat ∧
    regRead s 0x20#32 = 0x504E4701#32 ∧ regRead s 0x24#32 = s.result ∧
    (regRead s 0x28#32).toNat = s.level.toNat * 16 + s.cinfo.toNat ∧
    regRead s 0x2C#32 = s.ihdrWidth ∧ regRead s 0x30#32 = s.ihdrHeight ∧
    (regRead s 0x34#32).toNat =
      s.filter.toNat * 16777216 + s.compression.toNat * 65536 + s.colorType.toNat * 256 + s.bitDepth.toNat ∧
    (regRead s 0x38#32).toNat = s.interlace.toNat ∧ regRead s 0x3C#32 = s.outLen)

/-- Only commands and RESET change STATUS. -/
def Obligations.StatusChangesByCommandOrReset : Prop :=
  ∀ s t : State, step s = .next t → regRead t 0x04#32 ≠ regRead s 0x04#32 →
    s.program[s.opIndex]? = some .reset ∨ ∃ w, writesCmd w s

/-- R64: host writes and reads of IN: below IN_CAP the byte, above it no effect and 0x00; nothing else changes.
What a read returns to the host stands in readLog (log 6). -/
def Obligations.HostAccessToInput : Prop :=
  (∀ (s : State) (a : Word) (b : Byte), s.program[s.opIndex]? = some (.inWrite a b) →
    ∃ t, step s = .next t ∧ t = { s with inMem := t.inMem, opIndex := s.opIndex + 1 } ∧
      ∀ x, inByte t x = if x = a.toNat ∧ a.toNat < s.par.inCap then b else inByte s x) ∧
  (∀ (s : State) (a : Word), s.program[s.opIndex]? = some (.inRead a) →
    step s = .next { s with
      readLog := s.readLog ++ [.byte (if a.toNat < s.par.inCap then inByte s a.toNat else 0x00#8)],
      opIndex := s.opIndex + 1 })

/-- R236: an OUT read below OUT_LEN returns the byte of the stream, and no OUT read changes any state of the block. At and
above OUT_LEN nothing is said of the byte (R67), and the model counts a draw (log 7). -/
def Obligations.HostReadOfOutput : Prop :=
  ∀ (s : State) (a : Word), s.program[s.opIndex]? = some (.outRead a) →
    ∃ t b, step s = .next t ∧
      t = { s with readLog := s.readLog ++ [.byte b], opIndex := s.opIndex + 1, outDraws := t.outDraws } ∧
      (a.toNat < s.outLen.toNat → b = outByte s a.toNat)

/-- What OUT holds at and above OUT_LEN reaches nothing: two states that differ only there step to states that differ only
there, with the same values read (an OUT read there is a free draw that does not look at OUT, log 7). -/
def Obligations.StaleOutputReachesNothing : Prop :=
  ∀ s t s' : State, s.par.wf → SameButStale s t → step s = .next s' →
    ∃ t', step t = .next t' ∧ SameButStale s' t'

/-! ### Notation (30_encoding.md R99) -/

/-- R99: the expansions of the pseudo-instructions, their command words written out. An INBYTES address a + k below 2^32 is
that address; what one at or above 2^32 is, R99 does not say (log 18, and the statement after this one). -/
def Obligations.PseudoInstructionExpansions : Prop :=
  ∀ a n w h bd ct cm fm im cinfo level : Word, ∀ bs : List Byte,
    expand (.crc32 a n) = [.regWrite 0x10#32 a, .regWrite 0x14#32 n, .regWrite 0x00#32 0x05000000#32] ∧
    expand (.crcUpd a n) = [.regWrite 0x10#32 a, .regWrite 0x14#32 n, .regWrite 0x00#32 0x03000000#32] ∧
    expand (.adler32 a n) = [.regWrite 0x10#32 a, .regWrite 0x14#32 n, .regWrite 0x00#32 0x14000000#32] ∧
    expand (.adlerUpd a n) = [.regWrite 0x10#32 a, .regWrite 0x14#32 n, .regWrite 0x00#32 0x12000000#32] ∧
    ((expand (.inBytes a bs)).length = bs.length ∧
      ∀ k (h : k < bs.length), a.toNat + k < 4294967296 →
        ∃ x : Word, x.toNat = a.toNat + k ∧ (expand (.inBytes a bs))[k]? = some (.inWrite x bs[k])) ∧
    expand (.zcfgSet cinfo level) = [.regWrite 0x28#32 ((level <<< 4) ||| cinfo)] ∧
    expand (.ihdr w h bd ct cm fm im) =
      [.regWrite 0x2C#32 w, .regWrite 0x30#32 h,
       .regWrite 0x34#32 ((fm <<< 24) ||| (cm <<< 16) ||| (ct <<< 8) ||| bd), .regWrite 0x38#32 im,
       .regWrite 0x00#32 0x31000000#32] ∧
    expand (.idat a n) = [.regWrite 0x10#32 a, .regWrite 0x14#32 n, .regWrite 0x00#32 0x32000000#32] ∧
    expand .iend = [.regWrite 0x00#32 0x33000000#32]

/-- INBYTES past address 0xFFFFFFFF goes on from address 0: the model's choice, log 18. -/
def Obligations.InBytesAddressesWrap : Prop :=
  ∀ (a : Word) (bs : List Byte) (k : Nat) (h : k < bs.length),
    ∃ x : Word, x.toNat = (a.toNat + k) % 4294967296 ∧ (expand (.inBytes a bs))[k]? = some (.inWrite x bs[k])
end

