-- ==== Sys2Proof/Laws/Decode.lean ====
section
/-! SUPPORT. The command word in integers: what the two formats' words are, what a row's mask leaves of a word, and that a
matching row is the only one. -/

namespace Sys2Proof

/-- A format-N word is OP * 2^24 (30_encoding.md R91). -/
theorem wordN_toNat (op : Byte) : (wordN op).toNat = op.toNat * 16777216 := by
  have := op.isLt
  simp only [wordN, BitVec.toNat_shiftLeft, BitVec.toNat_setWidth, Nat.shiftLeft_eq]
  omega

/-- A format-B word is OP * 2^24 + IMM8 (30_encoding.md R92). -/
theorem wordB_toNat (op b : Byte) : (wordB op b).toNat = op.toNat * 16777216 + b.toNat := by
  have ho := op.isLt
  have hb := b.isLt
  have h : (wordB op b).toNat = (op.toNat * 16777216) ||| b.toNat := by
    simp only [wordB, BitVec.toNat_or, BitVec.toNat_shiftLeft, BitVec.toNat_setWidth, Nat.shiftLeft_eq]
    rw [Nat.mod_eq_of_lt (by omega), Nat.mod_eq_of_lt (by omega), Nat.mod_eq_of_lt (by omega)]
  rw [h, show (16777216 : Nat) = 2 ^ 24 from rfl, Nat.mul_comm, Nat.two_pow_add_eq_or_of_lt (by omega)]

/-- Format N's mask keeps the whole word. -/
theorem and_maskN (w : Word) : w &&& 0xFFFFFFFF#32 = w := by
  rw [show (0xFFFFFFFF#32) = BitVec.allOnes 32 by decide, BitVec.and_allOnes]

/-- Format B's mask clears IMM8 and keeps the rest. -/
theorem and_maskB_toNat (w : Word) : (w &&& 0xFFFFFF00#32).toNat = w.toNat / 256 * 256 := by
  rw [BitVec.toNat_and, show (0xFFFFFF00#32).toNat = (2 ^ 24 - 1) <<< 8 from rfl]
  apply Nat.eq_of_testBit_eq
  intro i
  rw [show w.toNat / 256 * 256 = (w.toNat / 2 ^ 8) <<< 8 by rw [Nat.shiftLeft_eq]; rfl, Nat.testBit_and,
    Nat.testBit_shiftLeft, Nat.testBit_shiftLeft, Nat.testBit_div_two_pow, Nat.testBit_two_pow_sub_one]
  by_cases h8 : 8 ≤ i
  · rw [show i - 8 + 8 = i by omega]
    by_cases h : i < 32
    · simp [h8, show i - 8 < 24 by omega]
    · have : w.toNat.testBit i = false :=
        Nat.testBit_lt_two_pow (Nat.lt_of_lt_of_le w.isLt (Nat.pow_le_pow_right (by decide) (by omega)))
      simp [this]
  · simp [h8]

theorem opField_toNat (w : Word) : (opField w).toNat = w.toNat / 16777216 := by
  have := w.isLt
  simp only [opField, BitVec.extractLsb'_toNat, Nat.shiftRight_eq_div_pow]
  omega

theorem imm8Field_toNat (w : Word) : (imm8Field w).toNat = w.toNat % 256 := by
  simp [imm8Field, BitVec.extractLsb'_toNat]

@[simp] theorem imm8Field_wordB (op b : Byte) : imm8Field (wordB op b) = b := by
  apply BitVec.eq_of_toNat_eq
  have := b.isLt
  rw [imm8Field_toNat, wordB_toNat]; omega

/-- Whether a row matches a word, in integers. -/
def OpcodeRow.fits (r : OpcodeRow) (w : Word) : Prop :=
  match r.format with
  | .n => w.toNat = r.op.toNat * 16777216
  | .b => w.toNat / 256 = r.op.toNat * 65536

theorem row_matches_iff (r : OpcodeRow) (w : Word) : ((w &&& r.mask) == r.pattern) = true ↔ r.fits w := by
  have hp : r.pattern.toNat = r.op.toNat * 16777216 := wordN_toNat r.op
  rw [beq_iff_eq, ← BitVec.toNat_inj, hp]
  unfold OpcodeRow.mask OpcodeRow.fits
  cases r.format
  · simp only [and_maskN]
  · simp only [and_maskB_toNat]; omega

/-- A row that matches a word has the word's OP. -/
theorem op_of_fits {r : OpcodeRow} {w : Word} (h : r.fits w) : r.op.toNat = w.toNat / 16777216 := by
  unfold OpcodeRow.fits at h
  cases hf : r.format <;> rw [hf] at h <;> simp only at h <;> omega

/-- No two rows of the map have the same OP (30_encoding.md R94). -/
theorem opcodes_differ : (opcodeTable.map OpcodeRow.op).Nodup := by decide

/-- A matching row is the one the decoder finds (30_encoding.md R94). -/
theorem matchingRow_of_fits {r : OpcodeRow} {w : Word} (hr : r ∈ opcodeTable) (h : r.fits w) :
    matchingRow w = some r := by
  unfold matchingRow
  cases hm : opcodeTable.find? fun r => (w &&& r.mask) == r.pattern with
  | none => exact absurd ((row_matches_iff r w).2 h) (List.find?_eq_none.1 hm r hr)
  | some q =>
    have hq : q.fits w := (row_matches_iff q w).1
      (List.find?_some (p := fun r : OpcodeRow => (w &&& r.mask) == r.pattern) hm)
    have he : q.op = r.op := BitVec.eq_of_toNat_eq (by rw [op_of_fits hq, op_of_fits h])
    rw [List.inj_on_of_nodup_map opcodes_differ (List.mem_of_find?_eq_some hm) hr he]

/-- The row the decoder finds is a row of the map and matches. -/
theorem matchingRow_some {r : OpcodeRow} {w : Word} (h : matchingRow w = some r) : r ∈ opcodeTable ∧ r.fits w :=
  ⟨List.mem_of_find?_eq_some h,
    (row_matches_iff r w).1 (List.find?_some (p := fun r : OpcodeRow => (w &&& r.mask) == r.pattern) h)⟩

theorem decode_of_fits {r : OpcodeRow} {w : Word} (hr : r ∈ opcodeTable) (h : r.fits w) :
    decode w = .command (r.build (imm8Field w)) := by simp [decode, matchingRow_of_fits hr h]

/-- A decoded command comes from a matching row. -/
theorem decode_command {i : Instr} {w : Word} (h : decode w = .command i) :
    ∃ r ∈ opcodeTable, r.fits w ∧ i = r.build (imm8Field w) := by
  unfold decode at h
  cases hm : matchingRow w with
  | none => rw [hm] at h; dsimp only at h; split at h <;> cases h
  | some r =>
    rw [hm] at h
    exact ⟨r, (matchingRow_some hm).1, (matchingRow_some hm).2, by simpa using h.symm⟩

/-- A word is illegal exactly when no row matches it. -/
theorem decode_illegal_iff (w : Word) : (∃ why, decode w = .illegal why) ↔ ∀ r ∈ opcodeTable, ¬ r.fits w := by
  constructor
  · rintro ⟨why, h⟩ r hr hf
    rw [decode_of_fits hr hf] at h; cases h
  · intro h
    cases hd : decode w with
    | illegal why => exact ⟨why, rfl⟩
    | command i =>
      obtain ⟨r, hr, hf, -⟩ := decode_command hd
      exact absurd hf (h r hr)

end Sys2Proof
end

