-- ==== Sys2Proof/Laws/State.lean ====
section
/-! SUPPORT. One lemma per field per update of State, each true by rfl, so that no later proof unfolds a record update.
Last, the fields that no host register write changes. -/

namespace Sys2Proof.Machine

/-! State.setCrcAcc -/

@[simp] theorem State.setCrcAcc_strict (v : Word) (s : State) : (s.setCrcAcc v).strict = s.strict := rfl
@[simp] theorem State.setCrcAcc_srcAddr (v : Word) (s : State) : (s.setCrcAcc v).srcAddr = s.srcAddr := rfl
@[simp] theorem State.setCrcAcc_srcLen (v : Word) (s : State) : (s.setCrcAcc v).srcLen = s.srcLen := rfl
@[simp] theorem State.setCrcAcc_crcAcc (v : Word) (s : State) : (s.setCrcAcc v).crcAcc = v := rfl
@[simp] theorem State.setCrcAcc_s1 (v : Word) (s : State) : (s.setCrcAcc v).s1 = s.s1 := rfl
@[simp] theorem State.setCrcAcc_s2 (v : Word) (s : State) : (s.setCrcAcc v).s2 = s.s2 := rfl
@[simp] theorem State.setCrcAcc_result (v : Word) (s : State) : (s.setCrcAcc v).result = s.result := rfl
@[simp] theorem State.setCrcAcc_cinfo (v : Word) (s : State) : (s.setCrcAcc v).cinfo = s.cinfo := rfl
@[simp] theorem State.setCrcAcc_level (v : Word) (s : State) : (s.setCrcAcc v).level = s.level := rfl
@[simp] theorem State.setCrcAcc_ihdrWidth (v : Word) (s : State) : (s.setCrcAcc v).ihdrWidth = s.ihdrWidth := rfl
@[simp] theorem State.setCrcAcc_ihdrHeight (v : Word) (s : State) : (s.setCrcAcc v).ihdrHeight = s.ihdrHeight := rfl
@[simp] theorem State.setCrcAcc_bitDepth (v : Word) (s : State) : (s.setCrcAcc v).bitDepth = s.bitDepth := rfl
@[simp] theorem State.setCrcAcc_colorType (v : Word) (s : State) : (s.setCrcAcc v).colorType = s.colorType := rfl
@[simp] theorem State.setCrcAcc_compression (v : Word) (s : State) : (s.setCrcAcc v).compression = s.compression := rfl
@[simp] theorem State.setCrcAcc_filter (v : Word) (s : State) : (s.setCrcAcc v).filter = s.filter := rfl
@[simp] theorem State.setCrcAcc_interlace (v : Word) (s : State) : (s.setCrcAcc v).interlace = s.interlace := rfl
@[simp] theorem State.setCrcAcc_seq (v : Word) (s : State) : (s.setCrcAcc v).seq = s.seq := rfl
@[simp] theorem State.setCrcAcc_fault (v : Word) (s : State) : (s.setCrcAcc v).fault = s.fault := rfl
@[simp] theorem State.setCrcAcc_faultCode (v : Word) (s : State) : (s.setCrcAcc v).faultCode = s.faultCode := rfl
@[simp] theorem State.setCrcAcc_faultInfo (v : Word) (s : State) : (s.setCrcAcc v).faultInfo = s.faultInfo := rfl
@[simp] theorem State.setCrcAcc_outLen (v : Word) (s : State) : (s.setCrcAcc v).outLen = s.outLen := rfl
@[simp] theorem State.setCrcAcc_inMem (v : Word) (s : State) : (s.setCrcAcc v).inMem = s.inMem := rfl
@[simp] theorem State.setCrcAcc_outMem (v : Word) (s : State) : (s.setCrcAcc v).outMem = s.outMem := rfl
@[simp] theorem State.setCrcAcc_par (v : Word) (s : State) : (s.setCrcAcc v).par = s.par := rfl
@[simp] theorem State.setCrcAcc_program (v : Word) (s : State) : (s.setCrcAcc v).program = s.program := rfl
@[simp] theorem State.setCrcAcc_opIndex (v : Word) (s : State) : (s.setCrcAcc v).opIndex = s.opIndex := rfl
@[simp] theorem State.setCrcAcc_readLog (v : Word) (s : State) : (s.setCrcAcc v).readLog = s.readLog := rfl
@[simp] theorem State.setCrcAcc_outDraws (v : Word) (s : State) : (s.setCrcAcc v).outDraws = s.outDraws := rfl

/-! State.setSums -/

@[simp] theorem State.setSums_strict (p : BitVec 16 × BitVec 16) (s : State) : (s.setSums p).strict = s.strict := rfl
@[simp] theorem State.setSums_srcAddr (p : BitVec 16 × BitVec 16) (s : State) : (s.setSums p).srcAddr = s.srcAddr := rfl
@[simp] theorem State.setSums_srcLen (p : BitVec 16 × BitVec 16) (s : State) : (s.setSums p).srcLen = s.srcLen := rfl
@[simp] theorem State.setSums_crcAcc (p : BitVec 16 × BitVec 16) (s : State) : (s.setSums p).crcAcc = s.crcAcc := rfl
@[simp] theorem State.setSums_s1 (p : BitVec 16 × BitVec 16) (s : State) : (s.setSums p).s1 = p.1 := rfl
@[simp] theorem State.setSums_s2 (p : BitVec 16 × BitVec 16) (s : State) : (s.setSums p).s2 = p.2 := rfl
@[simp] theorem State.setSums_result (p : BitVec 16 × BitVec 16) (s : State) : (s.setSums p).result = s.result := rfl
@[simp] theorem State.setSums_cinfo (p : BitVec 16 × BitVec 16) (s : State) : (s.setSums p).cinfo = s.cinfo := rfl
@[simp] theorem State.setSums_level (p : BitVec 16 × BitVec 16) (s : State) : (s.setSums p).level = s.level := rfl
@[simp] theorem State.setSums_ihdrWidth (p : BitVec 16 × BitVec 16) (s : State) : (s.setSums p).ihdrWidth = s.ihdrWidth := rfl
@[simp] theorem State.setSums_ihdrHeight (p : BitVec 16 × BitVec 16) (s : State) : (s.setSums p).ihdrHeight = s.ihdrHeight := rfl
@[simp] theorem State.setSums_bitDepth (p : BitVec 16 × BitVec 16) (s : State) : (s.setSums p).bitDepth = s.bitDepth := rfl
@[simp] theorem State.setSums_colorType (p : BitVec 16 × BitVec 16) (s : State) : (s.setSums p).colorType = s.colorType := rfl
@[simp] theorem State.setSums_compression (p : BitVec 16 × BitVec 16) (s : State) : (s.setSums p).compression = s.compression := rfl
@[simp] theorem State.setSums_filter (p : BitVec 16 × BitVec 16) (s : State) : (s.setSums p).filter = s.filter := rfl
@[simp] theorem State.setSums_interlace (p : BitVec 16 × BitVec 16) (s : State) : (s.setSums p).interlace = s.interlace := rfl
@[simp] theorem State.setSums_seq (p : BitVec 16 × BitVec 16) (s : State) : (s.setSums p).seq = s.seq := rfl
@[simp] theorem State.setSums_fault (p : BitVec 16 × BitVec 16) (s : State) : (s.setSums p).fault = s.fault := rfl
@[simp] theorem State.setSums_faultCode (p : BitVec 16 × BitVec 16) (s : State) : (s.setSums p).faultCode = s.faultCode := rfl
@[simp] theorem State.setSums_faultInfo (p : BitVec 16 × BitVec 16) (s : State) : (s.setSums p).faultInfo = s.faultInfo := rfl
@[simp] theorem State.setSums_outLen (p : BitVec 16 × BitVec 16) (s : State) : (s.setSums p).outLen = s.outLen := rfl
@[simp] theorem State.setSums_inMem (p : BitVec 16 × BitVec 16) (s : State) : (s.setSums p).inMem = s.inMem := rfl
@[simp] theorem State.setSums_outMem (p : BitVec 16 × BitVec 16) (s : State) : (s.setSums p).outMem = s.outMem := rfl
@[simp] theorem State.setSums_par (p : BitVec 16 × BitVec 16) (s : State) : (s.setSums p).par = s.par := rfl
@[simp] theorem State.setSums_program (p : BitVec 16 × BitVec 16) (s : State) : (s.setSums p).program = s.program := rfl
@[simp] theorem State.setSums_opIndex (p : BitVec 16 × BitVec 16) (s : State) : (s.setSums p).opIndex = s.opIndex := rfl
@[simp] theorem State.setSums_readLog (p : BitVec 16 × BitVec 16) (s : State) : (s.setSums p).readLog = s.readLog := rfl
@[simp] theorem State.setSums_outDraws (p : BitVec 16 × BitVec 16) (s : State) : (s.setSums p).outDraws = s.outDraws := rfl

/-! State.setResult -/

@[simp] theorem State.setResult_strict (v : Word) (s : State) : (s.setResult v).strict = s.strict := rfl
@[simp] theorem State.setResult_srcAddr (v : Word) (s : State) : (s.setResult v).srcAddr = s.srcAddr := rfl
@[simp] theorem State.setResult_srcLen (v : Word) (s : State) : (s.setResult v).srcLen = s.srcLen := rfl
@[simp] theorem State.setResult_crcAcc (v : Word) (s : State) : (s.setResult v).crcAcc = s.crcAcc := rfl
@[simp] theorem State.setResult_s1 (v : Word) (s : State) : (s.setResult v).s1 = s.s1 := rfl
@[simp] theorem State.setResult_s2 (v : Word) (s : State) : (s.setResult v).s2 = s.s2 := rfl
@[simp] theorem State.setResult_result (v : Word) (s : State) : (s.setResult v).result = v := rfl
@[simp] theorem State.setResult_cinfo (v : Word) (s : State) : (s.setResult v).cinfo = s.cinfo := rfl
@[simp] theorem State.setResult_level (v : Word) (s : State) : (s.setResult v).level = s.level := rfl
@[simp] theorem State.setResult_ihdrWidth (v : Word) (s : State) : (s.setResult v).ihdrWidth = s.ihdrWidth := rfl
@[simp] theorem State.setResult_ihdrHeight (v : Word) (s : State) : (s.setResult v).ihdrHeight = s.ihdrHeight := rfl
@[simp] theorem State.setResult_bitDepth (v : Word) (s : State) : (s.setResult v).bitDepth = s.bitDepth := rfl
@[simp] theorem State.setResult_colorType (v : Word) (s : State) : (s.setResult v).colorType = s.colorType := rfl
@[simp] theorem State.setResult_compression (v : Word) (s : State) : (s.setResult v).compression = s.compression := rfl
@[simp] theorem State.setResult_filter (v : Word) (s : State) : (s.setResult v).filter = s.filter := rfl
@[simp] theorem State.setResult_interlace (v : Word) (s : State) : (s.setResult v).interlace = s.interlace := rfl
@[simp] theorem State.setResult_seq (v : Word) (s : State) : (s.setResult v).seq = s.seq := rfl
@[simp] theorem State.setResult_fault (v : Word) (s : State) : (s.setResult v).fault = s.fault := rfl
@[simp] theorem State.setResult_faultCode (v : Word) (s : State) : (s.setResult v).faultCode = s.faultCode := rfl
@[simp] theorem State.setResult_faultInfo (v : Word) (s : State) : (s.setResult v).faultInfo = s.faultInfo := rfl
@[simp] theorem State.setResult_outLen (v : Word) (s : State) : (s.setResult v).outLen = s.outLen := rfl
@[simp] theorem State.setResult_inMem (v : Word) (s : State) : (s.setResult v).inMem = s.inMem := rfl
@[simp] theorem State.setResult_outMem (v : Word) (s : State) : (s.setResult v).outMem = s.outMem := rfl
@[simp] theorem State.setResult_par (v : Word) (s : State) : (s.setResult v).par = s.par := rfl
@[simp] theorem State.setResult_program (v : Word) (s : State) : (s.setResult v).program = s.program := rfl
@[simp] theorem State.setResult_opIndex (v : Word) (s : State) : (s.setResult v).opIndex = s.opIndex := rfl
@[simp] theorem State.setResult_readLog (v : Word) (s : State) : (s.setResult v).readLog = s.readLog := rfl
@[simp] theorem State.setResult_outDraws (v : Word) (s : State) : (s.setResult v).outDraws = s.outDraws := rfl

/-! State.setSeq -/

@[simp] theorem State.setSeq_strict (q : Seq) (s : State) : (s.setSeq q).strict = s.strict := rfl
@[simp] theorem State.setSeq_srcAddr (q : Seq) (s : State) : (s.setSeq q).srcAddr = s.srcAddr := rfl
@[simp] theorem State.setSeq_srcLen (q : Seq) (s : State) : (s.setSeq q).srcLen = s.srcLen := rfl
@[simp] theorem State.setSeq_crcAcc (q : Seq) (s : State) : (s.setSeq q).crcAcc = s.crcAcc := rfl
@[simp] theorem State.setSeq_s1 (q : Seq) (s : State) : (s.setSeq q).s1 = s.s1 := rfl
@[simp] theorem State.setSeq_s2 (q : Seq) (s : State) : (s.setSeq q).s2 = s.s2 := rfl
@[simp] theorem State.setSeq_result (q : Seq) (s : State) : (s.setSeq q).result = s.result := rfl
@[simp] theorem State.setSeq_cinfo (q : Seq) (s : State) : (s.setSeq q).cinfo = s.cinfo := rfl
@[simp] theorem State.setSeq_level (q : Seq) (s : State) : (s.setSeq q).level = s.level := rfl
@[simp] theorem State.setSeq_ihdrWidth (q : Seq) (s : State) : (s.setSeq q).ihdrWidth = s.ihdrWidth := rfl
@[simp] theorem State.setSeq_ihdrHeight (q : Seq) (s : State) : (s.setSeq q).ihdrHeight = s.ihdrHeight := rfl
@[simp] theorem State.setSeq_bitDepth (q : Seq) (s : State) : (s.setSeq q).bitDepth = s.bitDepth := rfl
@[simp] theorem State.setSeq_colorType (q : Seq) (s : State) : (s.setSeq q).colorType = s.colorType := rfl
@[simp] theorem State.setSeq_compression (q : Seq) (s : State) : (s.setSeq q).compression = s.compression := rfl
@[simp] theorem State.setSeq_filter (q : Seq) (s : State) : (s.setSeq q).filter = s.filter := rfl
@[simp] theorem State.setSeq_interlace (q : Seq) (s : State) : (s.setSeq q).interlace = s.interlace := rfl
@[simp] theorem State.setSeq_seq (q : Seq) (s : State) : (s.setSeq q).seq = q := rfl
@[simp] theorem State.setSeq_fault (q : Seq) (s : State) : (s.setSeq q).fault = s.fault := rfl
@[simp] theorem State.setSeq_faultCode (q : Seq) (s : State) : (s.setSeq q).faultCode = s.faultCode := rfl
@[simp] theorem State.setSeq_faultInfo (q : Seq) (s : State) : (s.setSeq q).faultInfo = s.faultInfo := rfl
@[simp] theorem State.setSeq_outLen (q : Seq) (s : State) : (s.setSeq q).outLen = s.outLen := rfl
@[simp] theorem State.setSeq_inMem (q : Seq) (s : State) : (s.setSeq q).inMem = s.inMem := rfl
@[simp] theorem State.setSeq_outMem (q : Seq) (s : State) : (s.setSeq q).outMem = s.outMem := rfl
@[simp] theorem State.setSeq_par (q : Seq) (s : State) : (s.setSeq q).par = s.par := rfl
@[simp] theorem State.setSeq_program (q : Seq) (s : State) : (s.setSeq q).program = s.program := rfl
@[simp] theorem State.setSeq_opIndex (q : Seq) (s : State) : (s.setSeq q).opIndex = s.opIndex := rfl
@[simp] theorem State.setSeq_readLog (q : Seq) (s : State) : (s.setSeq q).readLog = s.readLog := rfl
@[simp] theorem State.setSeq_outDraws (q : Seq) (s : State) : (s.setSeq q).outDraws = s.outDraws := rfl

/-! State.setOut -/

@[simp] theorem State.setOut_strict (m : Memory) (n : Word) (s : State) : (s.setOut m n).strict = s.strict := rfl
@[simp] theorem State.setOut_srcAddr (m : Memory) (n : Word) (s : State) : (s.setOut m n).srcAddr = s.srcAddr := rfl
@[simp] theorem State.setOut_srcLen (m : Memory) (n : Word) (s : State) : (s.setOut m n).srcLen = s.srcLen := rfl
@[simp] theorem State.setOut_crcAcc (m : Memory) (n : Word) (s : State) : (s.setOut m n).crcAcc = s.crcAcc := rfl
@[simp] theorem State.setOut_s1 (m : Memory) (n : Word) (s : State) : (s.setOut m n).s1 = s.s1 := rfl
@[simp] theorem State.setOut_s2 (m : Memory) (n : Word) (s : State) : (s.setOut m n).s2 = s.s2 := rfl
@[simp] theorem State.setOut_result (m : Memory) (n : Word) (s : State) : (s.setOut m n).result = s.result := rfl
@[simp] theorem State.setOut_cinfo (m : Memory) (n : Word) (s : State) : (s.setOut m n).cinfo = s.cinfo := rfl
@[simp] theorem State.setOut_level (m : Memory) (n : Word) (s : State) : (s.setOut m n).level = s.level := rfl
@[simp] theorem State.setOut_ihdrWidth (m : Memory) (n : Word) (s : State) : (s.setOut m n).ihdrWidth = s.ihdrWidth := rfl
@[simp] theorem State.setOut_ihdrHeight (m : Memory) (n : Word) (s : State) : (s.setOut m n).ihdrHeight = s.ihdrHeight := rfl
@[simp] theorem State.setOut_bitDepth (m : Memory) (n : Word) (s : State) : (s.setOut m n).bitDepth = s.bitDepth := rfl
@[simp] theorem State.setOut_colorType (m : Memory) (n : Word) (s : State) : (s.setOut m n).colorType = s.colorType := rfl
@[simp] theorem State.setOut_compression (m : Memory) (n : Word) (s : State) : (s.setOut m n).compression = s.compression := rfl
@[simp] theorem State.setOut_filter (m : Memory) (n : Word) (s : State) : (s.setOut m n).filter = s.filter := rfl
@[simp] theorem State.setOut_interlace (m : Memory) (n : Word) (s : State) : (s.setOut m n).interlace = s.interlace := rfl
@[simp] theorem State.setOut_seq (m : Memory) (n : Word) (s : State) : (s.setOut m n).seq = s.seq := rfl
@[simp] theorem State.setOut_fault (m : Memory) (n : Word) (s : State) : (s.setOut m n).fault = s.fault := rfl
@[simp] theorem State.setOut_faultCode (m : Memory) (n : Word) (s : State) : (s.setOut m n).faultCode = s.faultCode := rfl
@[simp] theorem State.setOut_faultInfo (m : Memory) (n : Word) (s : State) : (s.setOut m n).faultInfo = s.faultInfo := rfl
@[simp] theorem State.setOut_outLen (m : Memory) (n : Word) (s : State) : (s.setOut m n).outLen = n := rfl
@[simp] theorem State.setOut_inMem (m : Memory) (n : Word) (s : State) : (s.setOut m n).inMem = s.inMem := rfl
@[simp] theorem State.setOut_outMem (m : Memory) (n : Word) (s : State) : (s.setOut m n).outMem = m := rfl
@[simp] theorem State.setOut_par (m : Memory) (n : Word) (s : State) : (s.setOut m n).par = s.par := rfl
@[simp] theorem State.setOut_program (m : Memory) (n : Word) (s : State) : (s.setOut m n).program = s.program := rfl
@[simp] theorem State.setOut_opIndex (m : Memory) (n : Word) (s : State) : (s.setOut m n).opIndex = s.opIndex := rfl
@[simp] theorem State.setOut_readLog (m : Memory) (n : Word) (s : State) : (s.setOut m n).readLog = s.readLog := rfl
@[simp] theorem State.setOut_outDraws (m : Memory) (n : Word) (s : State) : (s.setOut m n).outDraws = s.outDraws := rfl

/-! State.setIn -/

@[simp] theorem State.setIn_strict (m : Memory) (s : State) : (s.setIn m).strict = s.strict := rfl
@[simp] theorem State.setIn_srcAddr (m : Memory) (s : State) : (s.setIn m).srcAddr = s.srcAddr := rfl
@[simp] theorem State.setIn_srcLen (m : Memory) (s : State) : (s.setIn m).srcLen = s.srcLen := rfl
@[simp] theorem State.setIn_crcAcc (m : Memory) (s : State) : (s.setIn m).crcAcc = s.crcAcc := rfl
@[simp] theorem State.setIn_s1 (m : Memory) (s : State) : (s.setIn m).s1 = s.s1 := rfl
@[simp] theorem State.setIn_s2 (m : Memory) (s : State) : (s.setIn m).s2 = s.s2 := rfl
@[simp] theorem State.setIn_result (m : Memory) (s : State) : (s.setIn m).result = s.result := rfl
@[simp] theorem State.setIn_cinfo (m : Memory) (s : State) : (s.setIn m).cinfo = s.cinfo := rfl
@[simp] theorem State.setIn_level (m : Memory) (s : State) : (s.setIn m).level = s.level := rfl
@[simp] theorem State.setIn_ihdrWidth (m : Memory) (s : State) : (s.setIn m).ihdrWidth = s.ihdrWidth := rfl
@[simp] theorem State.setIn_ihdrHeight (m : Memory) (s : State) : (s.setIn m).ihdrHeight = s.ihdrHeight := rfl
@[simp] theorem State.setIn_bitDepth (m : Memory) (s : State) : (s.setIn m).bitDepth = s.bitDepth := rfl
@[simp] theorem State.setIn_colorType (m : Memory) (s : State) : (s.setIn m).colorType = s.colorType := rfl
@[simp] theorem State.setIn_compression (m : Memory) (s : State) : (s.setIn m).compression = s.compression := rfl
@[simp] theorem State.setIn_filter (m : Memory) (s : State) : (s.setIn m).filter = s.filter := rfl
@[simp] theorem State.setIn_interlace (m : Memory) (s : State) : (s.setIn m).interlace = s.interlace := rfl
@[simp] theorem State.setIn_seq (m : Memory) (s : State) : (s.setIn m).seq = s.seq := rfl
@[simp] theorem State.setIn_fault (m : Memory) (s : State) : (s.setIn m).fault = s.fault := rfl
@[simp] theorem State.setIn_faultCode (m : Memory) (s : State) : (s.setIn m).faultCode = s.faultCode := rfl
@[simp] theorem State.setIn_faultInfo (m : Memory) (s : State) : (s.setIn m).faultInfo = s.faultInfo := rfl
@[simp] theorem State.setIn_outLen (m : Memory) (s : State) : (s.setIn m).outLen = s.outLen := rfl
@[simp] theorem State.setIn_inMem (m : Memory) (s : State) : (s.setIn m).inMem = m := rfl
@[simp] theorem State.setIn_outMem (m : Memory) (s : State) : (s.setIn m).outMem = s.outMem := rfl
@[simp] theorem State.setIn_par (m : Memory) (s : State) : (s.setIn m).par = s.par := rfl
@[simp] theorem State.setIn_program (m : Memory) (s : State) : (s.setIn m).program = s.program := rfl
@[simp] theorem State.setIn_opIndex (m : Memory) (s : State) : (s.setIn m).opIndex = s.opIndex := rfl
@[simp] theorem State.setIn_readLog (m : Memory) (s : State) : (s.setIn m).readLog = s.readLog := rfl
@[simp] theorem State.setIn_outDraws (m : Memory) (s : State) : (s.setIn m).outDraws = s.outDraws := rfl

/-! State.pushRead -/

@[simp] theorem State.pushRead_strict (v : ReadValue) (s : State) : (s.pushRead v).strict = s.strict := rfl
@[simp] theorem State.pushRead_srcAddr (v : ReadValue) (s : State) : (s.pushRead v).srcAddr = s.srcAddr := rfl
@[simp] theorem State.pushRead_srcLen (v : ReadValue) (s : State) : (s.pushRead v).srcLen = s.srcLen := rfl
@[simp] theorem State.pushRead_crcAcc (v : ReadValue) (s : State) : (s.pushRead v).crcAcc = s.crcAcc := rfl
@[simp] theorem State.pushRead_s1 (v : ReadValue) (s : State) : (s.pushRead v).s1 = s.s1 := rfl
@[simp] theorem State.pushRead_s2 (v : ReadValue) (s : State) : (s.pushRead v).s2 = s.s2 := rfl
@[simp] theorem State.pushRead_result (v : ReadValue) (s : State) : (s.pushRead v).result = s.result := rfl
@[simp] theorem State.pushRead_cinfo (v : ReadValue) (s : State) : (s.pushRead v).cinfo = s.cinfo := rfl
@[simp] theorem State.pushRead_level (v : ReadValue) (s : State) : (s.pushRead v).level = s.level := rfl
@[simp] theorem State.pushRead_ihdrWidth (v : ReadValue) (s : State) : (s.pushRead v).ihdrWidth = s.ihdrWidth := rfl
@[simp] theorem State.pushRead_ihdrHeight (v : ReadValue) (s : State) : (s.pushRead v).ihdrHeight = s.ihdrHeight := rfl
@[simp] theorem State.pushRead_bitDepth (v : ReadValue) (s : State) : (s.pushRead v).bitDepth = s.bitDepth := rfl
@[simp] theorem State.pushRead_colorType (v : ReadValue) (s : State) : (s.pushRead v).colorType = s.colorType := rfl
@[simp] theorem State.pushRead_compression (v : ReadValue) (s : State) : (s.pushRead v).compression = s.compression := rfl
@[simp] theorem State.pushRead_filter (v : ReadValue) (s : State) : (s.pushRead v).filter = s.filter := rfl
@[simp] theorem State.pushRead_interlace (v : ReadValue) (s : State) : (s.pushRead v).interlace = s.interlace := rfl
@[simp] theorem State.pushRead_seq (v : ReadValue) (s : State) : (s.pushRead v).seq = s.seq := rfl
@[simp] theorem State.pushRead_fault (v : ReadValue) (s : State) : (s.pushRead v).fault = s.fault := rfl
@[simp] theorem State.pushRead_faultCode (v : ReadValue) (s : State) : (s.pushRead v).faultCode = s.faultCode := rfl
@[simp] theorem State.pushRead_faultInfo (v : ReadValue) (s : State) : (s.pushRead v).faultInfo = s.faultInfo := rfl
@[simp] theorem State.pushRead_outLen (v : ReadValue) (s : State) : (s.pushRead v).outLen = s.outLen := rfl
@[simp] theorem State.pushRead_inMem (v : ReadValue) (s : State) : (s.pushRead v).inMem = s.inMem := rfl
@[simp] theorem State.pushRead_outMem (v : ReadValue) (s : State) : (s.pushRead v).outMem = s.outMem := rfl
@[simp] theorem State.pushRead_par (v : ReadValue) (s : State) : (s.pushRead v).par = s.par := rfl
@[simp] theorem State.pushRead_program (v : ReadValue) (s : State) : (s.pushRead v).program = s.program := rfl
@[simp] theorem State.pushRead_opIndex (v : ReadValue) (s : State) : (s.pushRead v).opIndex = s.opIndex := rfl
@[simp] theorem State.pushRead_readLog (v : ReadValue) (s : State) : (s.pushRead v).readLog = s.readLog ++ [v] := rfl
@[simp] theorem State.pushRead_outDraws (v : ReadValue) (s : State) : (s.pushRead v).outDraws = s.outDraws := rfl

/-! State.countDraw -/

@[simp] theorem State.countDraw_strict (s : State) : (s.countDraw).strict = s.strict := rfl
@[simp] theorem State.countDraw_srcAddr (s : State) : (s.countDraw).srcAddr = s.srcAddr := rfl
@[simp] theorem State.countDraw_srcLen (s : State) : (s.countDraw).srcLen = s.srcLen := rfl
@[simp] theorem State.countDraw_crcAcc (s : State) : (s.countDraw).crcAcc = s.crcAcc := rfl
@[simp] theorem State.countDraw_s1 (s : State) : (s.countDraw).s1 = s.s1 := rfl
@[simp] theorem State.countDraw_s2 (s : State) : (s.countDraw).s2 = s.s2 := rfl
@[simp] theorem State.countDraw_result (s : State) : (s.countDraw).result = s.result := rfl
@[simp] theorem State.countDraw_cinfo (s : State) : (s.countDraw).cinfo = s.cinfo := rfl
@[simp] theorem State.countDraw_level (s : State) : (s.countDraw).level = s.level := rfl
@[simp] theorem State.countDraw_ihdrWidth (s : State) : (s.countDraw).ihdrWidth = s.ihdrWidth := rfl
@[simp] theorem State.countDraw_ihdrHeight (s : State) : (s.countDraw).ihdrHeight = s.ihdrHeight := rfl
@[simp] theorem State.countDraw_bitDepth (s : State) : (s.countDraw).bitDepth = s.bitDepth := rfl
@[simp] theorem State.countDraw_colorType (s : State) : (s.countDraw).colorType = s.colorType := rfl
@[simp] theorem State.countDraw_compression (s : State) : (s.countDraw).compression = s.compression := rfl
@[simp] theorem State.countDraw_filter (s : State) : (s.countDraw).filter = s.filter := rfl
@[simp] theorem State.countDraw_interlace (s : State) : (s.countDraw).interlace = s.interlace := rfl
@[simp] theorem State.countDraw_seq (s : State) : (s.countDraw).seq = s.seq := rfl
@[simp] theorem State.countDraw_fault (s : State) : (s.countDraw).fault = s.fault := rfl
@[simp] theorem State.countDraw_faultCode (s : State) : (s.countDraw).faultCode = s.faultCode := rfl
@[simp] theorem State.countDraw_faultInfo (s : State) : (s.countDraw).faultInfo = s.faultInfo := rfl
@[simp] theorem State.countDraw_outLen (s : State) : (s.countDraw).outLen = s.outLen := rfl
@[simp] theorem State.countDraw_inMem (s : State) : (s.countDraw).inMem = s.inMem := rfl
@[simp] theorem State.countDraw_outMem (s : State) : (s.countDraw).outMem = s.outMem := rfl
@[simp] theorem State.countDraw_par (s : State) : (s.countDraw).par = s.par := rfl
@[simp] theorem State.countDraw_program (s : State) : (s.countDraw).program = s.program := rfl
@[simp] theorem State.countDraw_opIndex (s : State) : (s.countDraw).opIndex = s.opIndex := rfl
@[simp] theorem State.countDraw_readLog (s : State) : (s.countDraw).readLog = s.readLog := rfl
@[simp] theorem State.countDraw_outDraws (s : State) : (s.countDraw).outDraws = s.outDraws + 1 := rfl

/-! State.advance -/

@[simp] theorem State.advance_strict (s : State) : (s.advance).strict = s.strict := rfl
@[simp] theorem State.advance_srcAddr (s : State) : (s.advance).srcAddr = s.srcAddr := rfl
@[simp] theorem State.advance_srcLen (s : State) : (s.advance).srcLen = s.srcLen := rfl
@[simp] theorem State.advance_crcAcc (s : State) : (s.advance).crcAcc = s.crcAcc := rfl
@[simp] theorem State.advance_s1 (s : State) : (s.advance).s1 = s.s1 := rfl
@[simp] theorem State.advance_s2 (s : State) : (s.advance).s2 = s.s2 := rfl
@[simp] theorem State.advance_result (s : State) : (s.advance).result = s.result := rfl
@[simp] theorem State.advance_cinfo (s : State) : (s.advance).cinfo = s.cinfo := rfl
@[simp] theorem State.advance_level (s : State) : (s.advance).level = s.level := rfl
@[simp] theorem State.advance_ihdrWidth (s : State) : (s.advance).ihdrWidth = s.ihdrWidth := rfl
@[simp] theorem State.advance_ihdrHeight (s : State) : (s.advance).ihdrHeight = s.ihdrHeight := rfl
@[simp] theorem State.advance_bitDepth (s : State) : (s.advance).bitDepth = s.bitDepth := rfl
@[simp] theorem State.advance_colorType (s : State) : (s.advance).colorType = s.colorType := rfl
@[simp] theorem State.advance_compression (s : State) : (s.advance).compression = s.compression := rfl
@[simp] theorem State.advance_filter (s : State) : (s.advance).filter = s.filter := rfl
@[simp] theorem State.advance_interlace (s : State) : (s.advance).interlace = s.interlace := rfl
@[simp] theorem State.advance_seq (s : State) : (s.advance).seq = s.seq := rfl
@[simp] theorem State.advance_fault (s : State) : (s.advance).fault = s.fault := rfl
@[simp] theorem State.advance_faultCode (s : State) : (s.advance).faultCode = s.faultCode := rfl
@[simp] theorem State.advance_faultInfo (s : State) : (s.advance).faultInfo = s.faultInfo := rfl
@[simp] theorem State.advance_outLen (s : State) : (s.advance).outLen = s.outLen := rfl
@[simp] theorem State.advance_inMem (s : State) : (s.advance).inMem = s.inMem := rfl
@[simp] theorem State.advance_outMem (s : State) : (s.advance).outMem = s.outMem := rfl
@[simp] theorem State.advance_par (s : State) : (s.advance).par = s.par := rfl
@[simp] theorem State.advance_program (s : State) : (s.advance).program = s.program := rfl
@[simp] theorem State.advance_opIndex (s : State) : (s.advance).opIndex = s.opIndex + 1 := rfl
@[simp] theorem State.advance_readLog (s : State) : (s.advance).readLog = s.readLog := rfl
@[simp] theorem State.advance_outDraws (s : State) : (s.advance).outDraws = s.outDraws := rfl

/-! recordFault -/

@[simp] theorem recordFault_strict (c : FaultCode) (w : Word) (s : State) : (recordFault c w s).strict = s.strict := rfl
@[simp] theorem recordFault_srcAddr (c : FaultCode) (w : Word) (s : State) : (recordFault c w s).srcAddr = s.srcAddr := rfl
@[simp] theorem recordFault_srcLen (c : FaultCode) (w : Word) (s : State) : (recordFault c w s).srcLen = s.srcLen := rfl
@[simp] theorem recordFault_crcAcc (c : FaultCode) (w : Word) (s : State) : (recordFault c w s).crcAcc = s.crcAcc := rfl
@[simp] theorem recordFault_s1 (c : FaultCode) (w : Word) (s : State) : (recordFault c w s).s1 = s.s1 := rfl
@[simp] theorem recordFault_s2 (c : FaultCode) (w : Word) (s : State) : (recordFault c w s).s2 = s.s2 := rfl
@[simp] theorem recordFault_result (c : FaultCode) (w : Word) (s : State) : (recordFault c w s).result = s.result := rfl
@[simp] theorem recordFault_cinfo (c : FaultCode) (w : Word) (s : State) : (recordFault c w s).cinfo = s.cinfo := rfl
@[simp] theorem recordFault_level (c : FaultCode) (w : Word) (s : State) : (recordFault c w s).level = s.level := rfl
@[simp] theorem recordFault_ihdrWidth (c : FaultCode) (w : Word) (s : State) : (recordFault c w s).ihdrWidth = s.ihdrWidth := rfl
@[simp] theorem recordFault_ihdrHeight (c : FaultCode) (w : Word) (s : State) : (recordFault c w s).ihdrHeight = s.ihdrHeight := rfl
@[simp] theorem recordFault_bitDepth (c : FaultCode) (w : Word) (s : State) : (recordFault c w s).bitDepth = s.bitDepth := rfl
@[simp] theorem recordFault_colorType (c : FaultCode) (w : Word) (s : State) : (recordFault c w s).colorType = s.colorType := rfl
@[simp] theorem recordFault_compression (c : FaultCode) (w : Word) (s : State) : (recordFault c w s).compression = s.compression := rfl
@[simp] theorem recordFault_filter (c : FaultCode) (w : Word) (s : State) : (recordFault c w s).filter = s.filter := rfl
@[simp] theorem recordFault_interlace (c : FaultCode) (w : Word) (s : State) : (recordFault c w s).interlace = s.interlace := rfl
@[simp] theorem recordFault_seq (c : FaultCode) (w : Word) (s : State) : (recordFault c w s).seq = s.seq := rfl
@[simp] theorem recordFault_fault (c : FaultCode) (w : Word) (s : State) : (recordFault c w s).fault = true := rfl
@[simp] theorem recordFault_faultCode (c : FaultCode) (w : Word) (s : State) : (recordFault c w s).faultCode = c := rfl
@[simp] theorem recordFault_faultInfo (c : FaultCode) (w : Word) (s : State) : (recordFault c w s).faultInfo = w := rfl
@[simp] theorem recordFault_outLen (c : FaultCode) (w : Word) (s : State) : (recordFault c w s).outLen = s.outLen := rfl
@[simp] theorem recordFault_inMem (c : FaultCode) (w : Word) (s : State) : (recordFault c w s).inMem = s.inMem := rfl
@[simp] theorem recordFault_outMem (c : FaultCode) (w : Word) (s : State) : (recordFault c w s).outMem = s.outMem := rfl
@[simp] theorem recordFault_par (c : FaultCode) (w : Word) (s : State) : (recordFault c w s).par = s.par := rfl
@[simp] theorem recordFault_program (c : FaultCode) (w : Word) (s : State) : (recordFault c w s).program = s.program := rfl
@[simp] theorem recordFault_opIndex (c : FaultCode) (w : Word) (s : State) : (recordFault c w s).opIndex = s.opIndex := rfl
@[simp] theorem recordFault_readLog (c : FaultCode) (w : Word) (s : State) : (recordFault c w s).readLog = s.readLog := rfl
@[simp] theorem recordFault_outDraws (c : FaultCode) (w : Word) (s : State) : (recordFault c w s).outDraws = s.outDraws := rfl

/-! resetBlock -/

@[simp] theorem resetBlock_strict (s : State) : (resetBlock s).strict = State.reset.strict := rfl
@[simp] theorem resetBlock_srcAddr (s : State) : (resetBlock s).srcAddr = State.reset.srcAddr := rfl
@[simp] theorem resetBlock_srcLen (s : State) : (resetBlock s).srcLen = State.reset.srcLen := rfl
@[simp] theorem resetBlock_crcAcc (s : State) : (resetBlock s).crcAcc = State.reset.crcAcc := rfl
@[simp] theorem resetBlock_s1 (s : State) : (resetBlock s).s1 = State.reset.s1 := rfl
@[simp] theorem resetBlock_s2 (s : State) : (resetBlock s).s2 = State.reset.s2 := rfl
@[simp] theorem resetBlock_result (s : State) : (resetBlock s).result = State.reset.result := rfl
@[simp] theorem resetBlock_cinfo (s : State) : (resetBlock s).cinfo = State.reset.cinfo := rfl
@[simp] theorem resetBlock_level (s : State) : (resetBlock s).level = State.reset.level := rfl
@[simp] theorem resetBlock_ihdrWidth (s : State) : (resetBlock s).ihdrWidth = State.reset.ihdrWidth := rfl
@[simp] theorem resetBlock_ihdrHeight (s : State) : (resetBlock s).ihdrHeight = State.reset.ihdrHeight := rfl
@[simp] theorem resetBlock_bitDepth (s : State) : (resetBlock s).bitDepth = State.reset.bitDepth := rfl
@[simp] theorem resetBlock_colorType (s : State) : (resetBlock s).colorType = State.reset.colorType := rfl
@[simp] theorem resetBlock_compression (s : State) : (resetBlock s).compression = State.reset.compression := rfl
@[simp] theorem resetBlock_filter (s : State) : (resetBlock s).filter = State.reset.filter := rfl
@[simp] theorem resetBlock_interlace (s : State) : (resetBlock s).interlace = State.reset.interlace := rfl
@[simp] theorem resetBlock_seq (s : State) : (resetBlock s).seq = State.reset.seq := rfl
@[simp] theorem resetBlock_fault (s : State) : (resetBlock s).fault = State.reset.fault := rfl
@[simp] theorem resetBlock_faultCode (s : State) : (resetBlock s).faultCode = State.reset.faultCode := rfl
@[simp] theorem resetBlock_faultInfo (s : State) : (resetBlock s).faultInfo = State.reset.faultInfo := rfl
@[simp] theorem resetBlock_outLen (s : State) : (resetBlock s).outLen = State.reset.outLen := rfl
@[simp] theorem resetBlock_inMem (s : State) : (resetBlock s).inMem = s.inMem := rfl
@[simp] theorem resetBlock_outMem (s : State) : (resetBlock s).outMem = s.outMem := rfl
@[simp] theorem resetBlock_par (s : State) : (resetBlock s).par = s.par := rfl
@[simp] theorem resetBlock_program (s : State) : (resetBlock s).program = s.program := rfl
@[simp] theorem resetBlock_opIndex (s : State) : (resetBlock s).opIndex = s.opIndex := rfl
@[simp] theorem resetBlock_readLog (s : State) : (resetBlock s).readLog = s.readLog := rfl
@[simp] theorem resetBlock_outDraws (s : State) : (resetBlock s).outDraws = s.outDraws := rfl

/-! outAppend -/

@[simp] theorem outAppend_strict (bs : List Byte) (s : State) : (outAppend bs s).strict = s.strict := rfl
@[simp] theorem outAppend_srcAddr (bs : List Byte) (s : State) : (outAppend bs s).srcAddr = s.srcAddr := rfl
@[simp] theorem outAppend_srcLen (bs : List Byte) (s : State) : (outAppend bs s).srcLen = s.srcLen := rfl
@[simp] theorem outAppend_crcAcc (bs : List Byte) (s : State) : (outAppend bs s).crcAcc = s.crcAcc := rfl
@[simp] theorem outAppend_s1 (bs : List Byte) (s : State) : (outAppend bs s).s1 = s.s1 := rfl
@[simp] theorem outAppend_s2 (bs : List Byte) (s : State) : (outAppend bs s).s2 = s.s2 := rfl
@[simp] theorem outAppend_result (bs : List Byte) (s : State) : (outAppend bs s).result = s.result := rfl
@[simp] theorem outAppend_cinfo (bs : List Byte) (s : State) : (outAppend bs s).cinfo = s.cinfo := rfl
@[simp] theorem outAppend_level (bs : List Byte) (s : State) : (outAppend bs s).level = s.level := rfl
@[simp] theorem outAppend_ihdrWidth (bs : List Byte) (s : State) : (outAppend bs s).ihdrWidth = s.ihdrWidth := rfl
@[simp] theorem outAppend_ihdrHeight (bs : List Byte) (s : State) : (outAppend bs s).ihdrHeight = s.ihdrHeight := rfl
@[simp] theorem outAppend_bitDepth (bs : List Byte) (s : State) : (outAppend bs s).bitDepth = s.bitDepth := rfl
@[simp] theorem outAppend_colorType (bs : List Byte) (s : State) : (outAppend bs s).colorType = s.colorType := rfl
@[simp] theorem outAppend_compression (bs : List Byte) (s : State) : (outAppend bs s).compression = s.compression := rfl
@[simp] theorem outAppend_filter (bs : List Byte) (s : State) : (outAppend bs s).filter = s.filter := rfl
@[simp] theorem outAppend_interlace (bs : List Byte) (s : State) : (outAppend bs s).interlace = s.interlace := rfl
@[simp] theorem outAppend_seq (bs : List Byte) (s : State) : (outAppend bs s).seq = s.seq := rfl
@[simp] theorem outAppend_fault (bs : List Byte) (s : State) : (outAppend bs s).fault = s.fault := rfl
@[simp] theorem outAppend_faultCode (bs : List Byte) (s : State) : (outAppend bs s).faultCode = s.faultCode := rfl
@[simp] theorem outAppend_faultInfo (bs : List Byte) (s : State) : (outAppend bs s).faultInfo = s.faultInfo := rfl
@[simp] theorem outAppend_inMem (bs : List Byte) (s : State) : (outAppend bs s).inMem = s.inMem := rfl
@[simp] theorem outAppend_par (bs : List Byte) (s : State) : (outAppend bs s).par = s.par := rfl
@[simp] theorem outAppend_program (bs : List Byte) (s : State) : (outAppend bs s).program = s.program := rfl
@[simp] theorem outAppend_opIndex (bs : List Byte) (s : State) : (outAppend bs s).opIndex = s.opIndex := rfl
@[simp] theorem outAppend_readLog (bs : List Byte) (s : State) : (outAppend bs s).readLog = s.readLog := rfl
@[simp] theorem outAppend_outDraws (bs : List Byte) (s : State) : (outAppend bs s).outDraws = s.outDraws := rfl

/-! storeOp -/

@[simp] theorem storeOp_strict (op : HostOp) (s : State) : (storeOp op s).strict = s.strict := rfl
@[simp] theorem storeOp_srcAddr (op : HostOp) (s : State) : (storeOp op s).srcAddr = s.srcAddr := rfl
@[simp] theorem storeOp_srcLen (op : HostOp) (s : State) : (storeOp op s).srcLen = s.srcLen := rfl
@[simp] theorem storeOp_crcAcc (op : HostOp) (s : State) : (storeOp op s).crcAcc = s.crcAcc := rfl
@[simp] theorem storeOp_s1 (op : HostOp) (s : State) : (storeOp op s).s1 = s.s1 := rfl
@[simp] theorem storeOp_s2 (op : HostOp) (s : State) : (storeOp op s).s2 = s.s2 := rfl
@[simp] theorem storeOp_result (op : HostOp) (s : State) : (storeOp op s).result = s.result := rfl
@[simp] theorem storeOp_cinfo (op : HostOp) (s : State) : (storeOp op s).cinfo = s.cinfo := rfl
@[simp] theorem storeOp_level (op : HostOp) (s : State) : (storeOp op s).level = s.level := rfl
@[simp] theorem storeOp_ihdrWidth (op : HostOp) (s : State) : (storeOp op s).ihdrWidth = s.ihdrWidth := rfl
@[simp] theorem storeOp_ihdrHeight (op : HostOp) (s : State) : (storeOp op s).ihdrHeight = s.ihdrHeight := rfl
@[simp] theorem storeOp_bitDepth (op : HostOp) (s : State) : (storeOp op s).bitDepth = s.bitDepth := rfl
@[simp] theorem storeOp_colorType (op : HostOp) (s : State) : (storeOp op s).colorType = s.colorType := rfl
@[simp] theorem storeOp_compression (op : HostOp) (s : State) : (storeOp op s).compression = s.compression := rfl
@[simp] theorem storeOp_filter (op : HostOp) (s : State) : (storeOp op s).filter = s.filter := rfl
@[simp] theorem storeOp_interlace (op : HostOp) (s : State) : (storeOp op s).interlace = s.interlace := rfl
@[simp] theorem storeOp_seq (op : HostOp) (s : State) : (storeOp op s).seq = s.seq := rfl
@[simp] theorem storeOp_fault (op : HostOp) (s : State) : (storeOp op s).fault = s.fault := rfl
@[simp] theorem storeOp_faultCode (op : HostOp) (s : State) : (storeOp op s).faultCode = s.faultCode := rfl
@[simp] theorem storeOp_faultInfo (op : HostOp) (s : State) : (storeOp op s).faultInfo = s.faultInfo := rfl
@[simp] theorem storeOp_outLen (op : HostOp) (s : State) : (storeOp op s).outLen = s.outLen := rfl
@[simp] theorem storeOp_inMem (op : HostOp) (s : State) : (storeOp op s).inMem = s.inMem := rfl
@[simp] theorem storeOp_outMem (op : HostOp) (s : State) : (storeOp op s).outMem = s.outMem := rfl
@[simp] theorem storeOp_par (op : HostOp) (s : State) : (storeOp op s).par = s.par := rfl
@[simp] theorem storeOp_opIndex (op : HostOp) (s : State) : (storeOp op s).opIndex = s.opIndex := rfl
@[simp] theorem storeOp_readLog (op : HostOp) (s : State) : (storeOp op s).readLog = s.readLog := rfl
@[simp] theorem storeOp_outDraws (op : HostOp) (s : State) : (storeOp op s).outDraws = s.outDraws := rfl

/-! storeReg: the fields that are no field of a read-write register (10_state.md R23). -/

@[simp] theorem storeReg_s1 (v : Word) (s : State) (r : Reg) : (storeReg v s r).s1 = s.s1 := by cases r <;> rfl
@[simp] theorem storeReg_s2 (v : Word) (s : State) (r : Reg) : (storeReg v s r).s2 = s.s2 := by cases r <;> rfl
@[simp] theorem storeReg_result (v : Word) (s : State) (r : Reg) : (storeReg v s r).result = s.result := by cases r <;> rfl
@[simp] theorem storeReg_seq (v : Word) (s : State) (r : Reg) : (storeReg v s r).seq = s.seq := by cases r <;> rfl
@[simp] theorem storeReg_fault (v : Word) (s : State) (r : Reg) : (storeReg v s r).fault = s.fault := by cases r <;> rfl
@[simp] theorem storeReg_faultCode (v : Word) (s : State) (r : Reg) : (storeReg v s r).faultCode = s.faultCode := by cases r <;> rfl
@[simp] theorem storeReg_faultInfo (v : Word) (s : State) (r : Reg) : (storeReg v s r).faultInfo = s.faultInfo := by cases r <;> rfl
@[simp] theorem storeReg_outLen (v : Word) (s : State) (r : Reg) : (storeReg v s r).outLen = s.outLen := by cases r <;> rfl
@[simp] theorem storeReg_inMem (v : Word) (s : State) (r : Reg) : (storeReg v s r).inMem = s.inMem := by cases r <;> rfl
@[simp] theorem storeReg_outMem (v : Word) (s : State) (r : Reg) : (storeReg v s r).outMem = s.outMem := by cases r <;> rfl
@[simp] theorem storeReg_par (v : Word) (s : State) (r : Reg) : (storeReg v s r).par = s.par := by cases r <;> rfl
@[simp] theorem storeReg_program (v : Word) (s : State) (r : Reg) : (storeReg v s r).program = s.program := by cases r <;> rfl
@[simp] theorem storeReg_opIndex (v : Word) (s : State) (r : Reg) : (storeReg v s r).opIndex = s.opIndex := by cases r <;> rfl
@[simp] theorem storeReg_readLog (v : Word) (s : State) (r : Reg) : (storeReg v s r).readLog = s.readLog := by cases r <;> rfl
@[simp] theorem storeReg_outDraws (v : Word) (s : State) (r : Reg) : (storeReg v s r).outDraws = s.outDraws := by cases r <;> rfl

end Sys2Proof.Machine
end

