-- ==== Sys2Proof/Laws/Memory.lean ====
section
/-! SUPPORT. The laws of the canonical byte memory: a read after a write gives the byte written, a write leaves every
other address alone, and every memory operation keeps the canonical form and the bound on addresses. -/

namespace Sys2Proof.Machine

/-! One byte. -/

theorem cellAt_put_self (a : Nat) (b : Byte) (m : Memory) : Memory.cellAt (Memory.put a b m) a = some b := by
  induction m with
  | nil => simp [Memory.put, Memory.cellAt]
  | cons c m ih =>
    by_cases h1 : a < c.1
    · simp [Memory.put, Memory.cellAt, h1]
    · by_cases h2 : a = c.1
      · simp [Memory.put, Memory.cellAt, h2]
      · simp [Memory.put, Memory.cellAt, h1, h2, ih, Ne.symm h2]

theorem cellAt_put_other {a x : Nat} (h : x ≠ a) (b : Byte) (m : Memory) :
    Memory.cellAt (Memory.put a b m) x = Memory.cellAt m x := by
  induction m with
  | nil => simp [Memory.put, Memory.cellAt, Ne.symm h]
  | cons c m ih =>
    by_cases h1 : a < c.1
    · simp [Memory.put, Memory.cellAt, h1, Ne.symm h]
    · by_cases h2 : a = c.1
      · subst h2; simp [Memory.put, Memory.cellAt, Ne.symm h]
      · rw [Memory.put, if_neg h1, if_neg h2, Memory.cellAt, Memory.cellAt, ih]

theorem cellAt_drop_self (a : Nat) (m : Memory) : Memory.cellAt (Memory.drop a m) a = none := by
  induction m with
  | nil => rfl
  | cons c m ih => by_cases h : c.1 = a <;> simp [Memory.drop, Memory.cellAt, h, ih]

theorem cellAt_drop_other {a x : Nat} (h : x ≠ a) (m : Memory) :
    Memory.cellAt (Memory.drop a m) x = Memory.cellAt m x := by
  induction m with
  | nil => rfl
  | cons c m ih =>
    by_cases h1 : c.1 = a
    · subst h1; simp [Memory.drop, Memory.cellAt, ih, Ne.symm h]
    · rw [Memory.drop, if_neg h1, Memory.cellAt, Memory.cellAt, ih]

/-- A read after a write to the same address gives the byte written. -/
@[simp] theorem read_write_self (init : List Byte) (m : Memory) (a : Nat) (b : Byte) :
    Memory.read init (Memory.write init m a b) a = b := by
  by_cases h : b = powerUp init a
  · simp [Memory.read, Memory.write, h, cellAt_drop_self]
  · simp [Memory.read, Memory.write, h, cellAt_put_self]

/-- A write leaves every other address alone. -/
theorem read_write_other {a x : Nat} (h : x ≠ a) (init : List Byte) (m : Memory) (b : Byte) :
    Memory.read init (Memory.write init m a b) x = Memory.read init m x := by
  by_cases hb : b = powerUp init a
  · simp [Memory.read, Memory.write, hb, cellAt_drop_other h]
  · simp [Memory.read, Memory.write, hb, cellAt_put_other h]

/-! Byte strings. -/

/-- A byte-string write leaves every address outside the string alone. -/
theorem read_writeBytes_outside (init : List Byte) (bs : List Byte) (m : Memory) (a x : Nat)
    (h : x < a ∨ a + bs.length ≤ x) :
    Memory.read init (Memory.writeBytes init m a bs) x = Memory.read init m x := by
  induction bs generalizing m a with
  | nil => rfl
  | cons b bs ih =>
    simp only [List.length_cons] at h
    rw [Memory.writeBytes, ih _ _ (by omega), read_write_other (by omega)]

/-- A byte-string write stores byte i of the string at a + i. -/
theorem read_writeBytes_inside (init : List Byte) (bs : List Byte) (m : Memory) (a i : Nat) (h : i < bs.length) :
    Memory.read init (Memory.writeBytes init m a bs) (a + i) = bs[i] := by
  induction bs generalizing m a i with
  | nil => simp at h
  | cons b bs ih =>
    rw [Memory.writeBytes]
    cases i with
    | zero => simpa using read_writeBytes_outside init bs (Memory.write init m a b) (a + 1) a (by omega)
    | succ i =>
      have := ih (Memory.write init m a b) (a + 1) i (by simpa using h)
      rw [show a + (i + 1) = a + 1 + i by omega, this, List.getElem_cons_succ]

/-! The canonical form. -/

theorem mem_put {a : Nat} {b : Byte} {m : Memory} {c : Host.Cell} (h : c ∈ Memory.put a b m) :
    c = (a, b) ∨ c ∈ m := by
  induction m with
  | nil => simpa [Memory.put] using h
  | cons d m ih =>
    by_cases h1 : a < d.1
    · simpa [Memory.put, h1] using h
    · by_cases h2 : a = d.1
      · rw [Memory.put, if_neg h1, if_pos h2] at h
        rcases List.mem_cons.1 h with h | h
        · exact .inl h
        · exact .inr (List.mem_cons_of_mem _ h)
      · rw [Memory.put, if_neg h1, if_neg h2] at h
        rcases List.mem_cons.1 h with h | h
        · exact .inr (by simp [h])
        · rcases ih h with h | h
          · exact .inl h
          · exact .inr (List.mem_cons_of_mem _ h)

theorem mem_drop {a : Nat} {m : Memory} {c : Host.Cell} (h : c ∈ Memory.drop a m) : c ∈ m := by
  induction m with
  | nil => exact h
  | cons d m ih =>
    by_cases h1 : d.1 = a
    · rw [Memory.drop, if_pos h1] at h; exact List.mem_cons_of_mem _ (ih h)
    · rw [Memory.drop, if_neg h1] at h
      rcases List.mem_cons.1 h with h | h
      · simp [h]
      · exact List.mem_cons_of_mem _ (ih h)

theorem rising_put {a : Nat} {b : Byte} {m : Memory} (h : m.Pairwise (fun x y => x.1 < y.1)) :
    (Memory.put a b m).Pairwise (fun x y => x.1 < y.1) := by
  induction m with
  | nil => simp [Memory.put]
  | cons c m ih =>
    obtain ⟨hc, hm⟩ := List.pairwise_cons.1 h
    by_cases h1 : a < c.1
    · rw [Memory.put, if_pos h1]
      refine List.pairwise_cons.2 ⟨fun y hy => ?_, h⟩
      rcases List.mem_cons.1 hy with rfl | hy
      · exact h1
      · exact lt_trans h1 (hc y hy)
    · by_cases h2 : a = c.1
      · rw [Memory.put, if_neg h1, if_pos h2]
        exact List.pairwise_cons.2 ⟨fun y hy => by simpa [h2] using hc y hy, hm⟩
      · rw [Memory.put, if_neg h1, if_neg h2]
        refine List.pairwise_cons.2 ⟨fun y hy => ?_, ih hm⟩
        rcases mem_put hy with rfl | hy
        · show c.1 < a; omega
        · exact hc y hy

theorem rising_drop {a : Nat} {m : Memory} (h : m.Pairwise (fun x y => x.1 < y.1)) :
    (Memory.drop a m).Pairwise (fun x y => x.1 < y.1) := by
  induction m with
  | nil => exact h
  | cons c m ih =>
    obtain ⟨hc, hm⟩ := List.pairwise_cons.1 h
    by_cases h1 : c.1 = a
    · rw [Memory.drop, if_pos h1]; exact ih hm
    · rw [Memory.drop, if_neg h1]
      exact List.pairwise_cons.2 ⟨fun y hy => hc y (mem_drop hy), ih hm⟩

theorem wf_write {init : List Byte} {m : Memory} (h : Memory.wf init m) (a : Nat) (b : Byte) :
    Memory.wf init (Memory.write init m a b) := by
  by_cases hb : b = powerUp init a
  · rw [Memory.write, if_pos hb]
    exact ⟨rising_drop h.1, fun c hc => h.2 c (mem_drop hc)⟩
  · rw [Memory.write, if_neg hb]
    refine ⟨rising_put h.1, fun c hc => ?_⟩
    rcases mem_put hc with rfl | hc
    · exact hb
    · exact h.2 c hc

theorem wf_writeBytes {init : List Byte} {m : Memory} (h : Memory.wf init m) (a : Nat) (bs : List Byte) :
    Memory.wf init (Memory.writeBytes init m a bs) := by
  induction bs generalizing m a with
  | nil => exact h
  | cons b bs ih => exact ih (wf_write h a b) (a + 1)

theorem below_write {cap : Nat} {m : Memory} (h : Memory.below cap m) {a : Nat} (ha : a < cap) (init : List Byte)
    (b : Byte) : Memory.below cap (Memory.write init m a b) := by
  intro c hc
  rw [Memory.write] at hc
  split at hc
  · exact h c (mem_drop hc)
  · rcases mem_put hc with rfl | hc
    · exact ha
    · exact h c hc

theorem below_writeBytes {cap : Nat} {m : Memory} (h : Memory.below cap m) (init bs : List Byte) {a : Nat}
    (ha : a + bs.length ≤ cap) : Memory.below cap (Memory.writeBytes init m a bs) := by
  induction bs generalizing m a with
  | nil => exact h
  | cons b bs ih =>
    simp only [List.length_cons] at ha
    exact ih (below_write h (by omega) init b) (by omega)

/-- An empty memory is canonical and below every bound. -/
theorem wf_nil (init : List Byte) : Memory.wf init [] :=
  ⟨List.Pairwise.nil, fun _ h => absurd h List.not_mem_nil⟩

theorem below_nil (cap : Nat) : Memory.below cap [] := fun _ h => absurd h List.not_mem_nil

/-- Reset memory is canonical (it lists nothing). -/
theorem reset_memories_wf : Memory.wf State.reset.par.inInit State.reset.inMem ∧
    Memory.wf State.reset.par.outInit State.reset.outMem := ⟨wf_nil _, wf_nil _⟩

end Sys2Proof.Machine
end

