-- ==== Sys2Proof/Laws/Ops.lean ====
section
/-! SUPPORT. The shared operations: what each can do, said once. Block input, the append to OUT, the chunk-write
admission and the end of a chunk write. -/

namespace Sys2Proof.Machine

/-! Sequencing. -/

@[simp] theorem onNext_next (f : State → State) (s : State) : onNext f (.next s) = .next (f s) := rfl

@[simp] theorem andThen_next (s : State) (f : State → Result) : andThen (.next s) f = f s := rfl

theorem onNext_eq_next {f : State → State} {r : Result} {t : State} (h : onNext f r = .next t) :
    ∃ s, r = .next s ∧ t = f s := by
  cases r with
  | next s => exact ⟨s, rfl, by simpa using h.symm⟩
  | fault e => cases e
  | refused e => simp [onNext] at h

/-! Byte order and frames. -/

@[simp] theorem be32_length (v : Word) : (be32 v).length = 4 := rfl

@[simp] theorem tag_length (k : Chunk) : (tag k).length = 4 := by cases k <;> rfl

@[simp] theorem signature_length : signature.length = 8 := rfl

@[simp] theorem ihdrPayload_length (s : State) : (ihdrPayload s).length = 13 := rfl

/-- A frame is 12 bytes longer than its payload (43_framer_stream.md R190). -/
@[simp] theorem frame_length (k : Chunk) (p : List Byte) : (frame (tag k) p).length = 12 + p.length := by
  simp [frame]; omega

/-! Block input. -/

@[simp] theorem memReadIn_length (s : State) (a n : Nat) : (memReadIn s a n).length = n := by simp [memReadIn]

@[simp] theorem memReadIn_getElem (s : State) (a n i : Nat) (h : i < (memReadIn s a n).length) :
    (memReadIn s a n)[i] = inByte s (a + i) := by simp [memReadIn]

theorem memReadIn_congr {s t : State} (hi : t.inMem = s.inMem) (hp : t.par = s.par) (a n : Nat) :
    memReadIn t a n = memReadIn s a n := by simp [memReadIn, inByte, hi, hp]

theorem memReadIn_append (s : State) (a n m : Nat) :
    memReadIn s a (n + m) = memReadIn s a n ++ memReadIn s (a + n) m := by
  simp [memReadIn, List.range_add, Nat.add_assoc]

/-- A byte string is the block's when it has SRC_LEN bytes and byte i is IN[SRC_ADDR + i] (20_memory.md R61). -/
theorem blockBytes_eq {s : State} {d : List Byte} (hl : d.length = s.srcLen.toNat)
    (h : ∀ i (hi : i < d.length), d[i] = inByte s (s.srcAddr.toNat + i)) : blockBytes s = d := by
  apply List.ext_getElem
  · simp [blockBytes, hl]
  · intro i h1 h2; simp [blockBytes, h i h2]

/-- In range: the block command goes on with the block's bytes. -/
theorem withBlock_inRange {s : State} (h : s.srcAddr.toNat + s.srcLen.toNat ≤ s.par.inCap) (cmd : Word)
    (body : List Byte → Result) : withBlock cmd s body = body (blockBytes s) := by
  simp [withBlock, srcOutOfRange, Nat.not_lt.2 h]

/-- Out of range: SRC_RANGE with the command word. -/
theorem withBlock_outOfRange {s : State} (h : s.par.inCap < s.srcAddr.toNat + s.srcLen.toNat) (cmd : Word)
    (body : List Byte → Result) : withBlock cmd s body = .next (recordFault .srcRange cmd s) := by
  simp [withBlock, srcOutOfRange, h, raiseFault]

/-- Everything the block form can do. -/
theorem withBlock_cases {cmd : Word} {s : State} {body : List Byte → Result} {r : Result}
    (h : withBlock cmd s body = r) :
    (s.srcAddr.toNat + s.srcLen.toNat ≤ s.par.inCap ∧ r = body (blockBytes s)) ∨
      (s.par.inCap < s.srcAddr.toNat + s.srcLen.toNat ∧ r = .next (recordFault .srcRange cmd s)) := by
  subst h
  rcases Nat.lt_or_ge s.par.inCap (s.srcAddr.toNat + s.srcLen.toNat) with hr | hr
  · exact .inr ⟨hr, withBlock_outOfRange hr cmd body⟩
  · exact .inl ⟨hr, withBlock_inRange hr cmd body⟩

/-! The append to OUT. -/

@[simp] theorem outBytes_length (s : State) : (outBytes s).length = s.outLen.toNat := by simp [outBytes]

@[simp] theorem outBytes_getElem (s : State) (i : Nat) (h : i < (outBytes s).length) :
    (outBytes s)[i] = outByte s i := by simp [outBytes]

theorem outBytes_congr {s t : State} (hl : t.outLen = s.outLen)
    (hb : ∀ a < s.outLen.toNat, outByte t a = outByte s a) : outBytes t = outBytes s := by
  apply List.ext_getElem
  · simp [hl]
  · intro i h1 h2; simpa using hb i (by simpa using h2)

theorem outBytes_agree {s t : State} (hb : outBytes t = outBytes s) {a : Nat} (ha : a < s.outLen.toNat) :
    outByte t a = outByte s a := by
  have h2 : a < (outBytes s).length := by simpa using ha
  have h1 : a < (outBytes t).length := by rw [hb]; exact h2
  rw [← outBytes_getElem t a h1, ← outBytes_getElem s a h2]
  simp [hb]

/-- States with the same OUT and parameters read the same OUT bytes. -/
theorem outByte_of_outMem {s t : State} (hm : t.outMem = s.outMem) (hp : t.par = s.par) (a : Nat) :
    outByte t a = outByte s a := by simp [outByte, hm, hp]

theorem outBytes_of_outMem {s t : State} (hm : t.outMem = s.outMem) (hp : t.par = s.par) (hl : t.outLen = s.outLen) :
    outBytes t = outBytes s := outBytes_congr hl fun a _ => outByte_of_outMem hm hp a

theorem outAppend_outLen {bs : List Byte} {s : State} (h : s.outLen.toNat + bs.length < 4294967296) :
    (outAppend bs s).outLen.toNat = s.outLen.toNat + bs.length := by
  simp [outAppend, Nat.mod_eq_of_lt h]

/-- The append stores byte i of the string at OUT[OUT_LEN + i]. -/
theorem outByte_outAppend_inside (bs : List Byte) (s : State) (i : Nat) (h : i < bs.length) :
    outByte (outAppend bs s) (s.outLen.toNat + i) = bs[i] :=
  read_writeBytes_inside s.par.outInit bs s.outMem s.outLen.toNat i h

/-- The append leaves every other byte of OUT alone. -/
theorem outByte_outAppend_outside (bs : List Byte) (s : State) (a : Nat)
    (h : a < s.outLen.toNat ∨ s.outLen.toNat + bs.length ≤ a) : outByte (outAppend bs s) a = outByte s a :=
  read_writeBytes_outside s.par.outInit bs s.outMem s.outLen.toNat a h

/-- The stream after an append is the stream before it and the bytes appended. -/
theorem outBytes_outAppend {bs : List Byte} {s : State} (h : s.outLen.toNat + bs.length < 4294967296) :
    outBytes (outAppend bs s) = outBytes s ++ bs := by
  apply List.ext_getElem
  · simp [outAppend_outLen h]
  · intro i h1 h2
    rw [outBytes_getElem]
    rcases Nat.lt_or_ge i s.outLen.toNat with hi | hi
    · rw [List.getElem_append_left (by simpa using hi), outBytes_getElem,
        outByte_outAppend_outside bs s i (.inl hi)]
    · rw [List.getElem_append_right (by simpa using hi)]
      obtain ⟨k, rfl⟩ := Nat.exists_eq_add_of_le hi
      have hk : k < bs.length := by
        rw [outBytes_length, outAppend_outLen h] at h1; omega
      rw [outByte_outAppend_inside bs s k hk]
      simp

/-! The chunk-write admission and the end of a chunk write. -/

theorem admitChunk_start {s : State} (h : s.seq = .start) (k : Chunk) (cmd : Word) (body : Result) :
    admitChunk k cmd s body = .next (recordFault .noSignature cmd s) := by simp [admitChunk, h, raiseFault]

theorem admitChunk_order {s : State} {k : Chunk} (h : s.seq ≠ .start) (hs : s.strict = true)
    (ho : outOfOrder k s.seq = true) (cmd : Word) (body : Result) :
    admitChunk k cmd s body = .next (recordFault .order cmd s) := by simp [admitChunk, h, hs, ho, raiseFault]

theorem admitChunk_admitted {s : State} {k : Chunk} (h : s.seq ≠ .start)
    (ho : s.strict = true → outOfOrder k s.seq = false) (cmd : Word) (body : Result) :
    admitChunk k cmd s body = body := by
  cases hs : s.strict <;> simp_all [admitChunk]

/-- Everything the admission can do. -/
theorem admitChunk_cases {k : Chunk} {cmd : Word} {s : State} {body r : Result} (h : admitChunk k cmd s body = r) :
    (s.seq = .start ∧ r = .next (recordFault .noSignature cmd s)) ∨
      (s.seq ≠ .start ∧ s.strict = true ∧ outOfOrder k s.seq = true ∧ r = .next (recordFault .order cmd s)) ∨
      (s.seq ≠ .start ∧ (s.strict = true → outOfOrder k s.seq = false) ∧ r = body) := by
  subst h
  by_cases h1 : s.seq = .start
  · exact .inl ⟨h1, admitChunk_start h1 k cmd body⟩
  · by_cases h2 : s.strict = true ∧ outOfOrder k s.seq = true
    · exact .inr (.inl ⟨h1, h2.1, h2.2, admitChunk_order h1 h2.1 h2.2 cmd body⟩)
    · have ho : s.strict = true → outOfOrder k s.seq = false := fun hs => by
        simpa using fun h3 => h2 ⟨hs, h3⟩
      exact .inr (.inr ⟨h1, ho, admitChunk_admitted h1 ho cmd body⟩)

/-- The state after a chunk write that completes. -/
def chunkWritten (k : Chunk) (p : List Byte) (s : State) : State :=
  ((outAppend (frame (tag k) p) s).setSeq (seqAfter k)).setResult (crc32 (tag k ++ p))

theorem appendChunk_fits {k : Chunk} {p : List Byte} {s : State}
    (h : s.outLen.toNat + (12 + p.length) ≤ s.par.outCap) (cmd : Word) :
    appendChunk k p cmd s = .next (chunkWritten k p s) := by
  simp [appendChunk, Nat.not_lt.2 h, chunkWritten]

theorem appendChunk_overflow {k : Chunk} {p : List Byte} {s : State}
    (h : s.par.outCap < s.outLen.toNat + (12 + p.length)) (cmd : Word) :
    appendChunk k p cmd s = .next (recordFault .outOverflow cmd s) := by
  simp [appendChunk, h, raiseFault]

/-- Everything the end of a chunk write can do. -/
theorem appendChunk_cases {k : Chunk} {p : List Byte} {cmd : Word} {s : State} {r : Result}
    (h : appendChunk k p cmd s = r) :
    (s.outLen.toNat + (12 + p.length) ≤ s.par.outCap ∧ r = .next (chunkWritten k p s)) ∨
      (s.par.outCap < s.outLen.toNat + (12 + p.length) ∧ r = .next (recordFault .outOverflow cmd s)) := by
  subst h
  rcases Nat.lt_or_ge s.par.outCap (s.outLen.toNat + (12 + p.length)) with hr | hr
  · exact .inr ⟨hr, appendChunk_overflow hr cmd⟩
  · exact .inl ⟨hr, appendChunk_fits hr cmd⟩

theorem chunkWritten_outBytes {k : Chunk} {p : List Byte} {s : State}
    (h : s.outLen.toNat + (12 + p.length) < 4294967296) :
    outBytes (chunkWritten k p s) = outBytes s ++ frame (tag k) p := by
  have := outBytes_outAppend (bs := frame (tag k) p) (s := s) (by simpa using h)
  exact this

theorem chunkWritten_outLen {k : Chunk} {p : List Byte} {s : State}
    (h : s.outLen.toNat + (12 + p.length) < 4294967296) :
    (chunkWritten k p s).outLen.toNat = s.outLen.toNat + (12 + p.length) := by
  have := outAppend_outLen (bs := frame (tag k) p) (s := s) (by simpa using h)
  rw [frame_length] at this
  exact this

/-! What a completed chunk write leaves in the single fields. -/

theorem chunkWritten_eq (k : Chunk) (p : List Byte) (s : State) :
    chunkWritten k p s = { s with
      outMem := (outAppend (frame (tag k) p) s).outMem, outLen := (outAppend (frame (tag k) p) s).outLen,
      seq := seqAfter k, result := crc32 (tag k ++ p) } := by
  simp only [chunkWritten, State.setResult, State.setSeq, outAppend, State.setOut]

@[simp] theorem chunkWritten_seq (k : Chunk) (p : List Byte) (s : State) : (chunkWritten k p s).seq = seqAfter k := by
  rw [chunkWritten_eq]

@[simp] theorem chunkWritten_result (k : Chunk) (p : List Byte) (s : State) :
    (chunkWritten k p s).result = crc32 (tag k ++ p) := by
  rw [chunkWritten_eq]

@[simp] theorem chunkWritten_fault (k : Chunk) (p : List Byte) (s : State) :
    (chunkWritten k p s).fault = s.fault := by
  rw [chunkWritten_eq]

@[simp] theorem chunkWritten_par (k : Chunk) (p : List Byte) (s : State) : (chunkWritten k p s).par = s.par := by
  rw [chunkWritten_eq]

@[simp] theorem chunkWritten_inByte (k : Chunk) (p : List Byte) (s : State) (a : Nat) :
    inByte (chunkWritten k p s) a = inByte s a := by
  rw [chunkWritten_eq]; rfl

theorem chunkWritten_outByte (k : Chunk) (p : List Byte) (s : State) (a : Nat) :
    outByte (chunkWritten k p s) a = outByte (outAppend (frame (tag k) p) s) a := by
  simp only [outByte, chunkWritten_eq, outAppend_par]

end Sys2Proof.Machine
end

