-- ==== Sys2Proof/Laws/Commands.lean ====
section
/-! SUPPORT. What a command and a step can do, said once: every later proof about all commands or all steps goes through
`exec_cases` and `step_cases` and unfolds neither. -/

namespace Sys2Proof.Machine

/-! The words of a command. -/

theorem formatNWords_of_row {r : OpcodeRow} (i : Instr) (hr : r ∈ opcodeTable) (hf : r.format = .n)
    (hb : ∀ b, r.build b = i) : formatNWords r.op.toNat i := by
  intro w hop
  constructor
  · intro h0
    rw [decode_of_fits hr (by unfold OpcodeRow.fits; rw [hf]; simp only; omega), hb]
  · intro h1
    refine (decode_illegal_iff w).2 fun q hq hfit => h1 ?_
    have he : q = r := List.inj_on_of_nodup_map opcodes_differ hq hr
      (BitVec.eq_of_toNat_eq (by rw [op_of_fits hfit, hop]))
    unfold OpcodeRow.fits at hfit; rw [he, hf] at hfit; simp only at hfit; omega

theorem formatBWords_of_row {r : OpcodeRow} (f : Byte → Instr) (hr : r ∈ opcodeTable) (hf : r.format = .b)
    (hb : r.build = f) : formatBWords r.op.toNat f := by
  intro w hop
  constructor
  · intro h0
    have hi : imm8Field w = w.setWidth 8 := BitVec.eq_of_toNat_eq (by rw [imm8Field_toNat, BitVec.toNat_setWidth])
    rw [decode_of_fits hr (by unfold OpcodeRow.fits; rw [hf]; simp only; omega), hb, hi]
  · intro h1
    refine (decode_illegal_iff w).2 fun q hq hfit => h1 ?_
    have he : q = r := List.inj_on_of_nodup_map opcodes_differ hq hr
      (BitVec.eq_of_toNat_eq (by rw [op_of_fits hfit, hop]))
    unfold OpcodeRow.fits at hfit; rw [he, hf] at hfit; simp only at hfit; omega

/-! The Adler sums stay below the modulus (10_state.md R43). -/

theorem adlerStep_lt (p : BitVec 16 × BitVec 16) (b : Byte) :
    (adlerStep p b).1.toNat < 65521 ∧ (adlerStep p b).2.toNat < 65521 := by
  simp only [adlerStep, BitVec.toNat_ofNat]; omega

theorem adlerUpd_lt {p : BitVec 16 × BitVec 16} (h : p.1.toNat < 65521 ∧ p.2.toNat < 65521) (d : List Byte) :
    (adlerUpd p d).1.toNat < 65521 ∧ (adlerUpd p d).2.toNat < 65521 := by
  induction d generalizing p with
  | nil => exact h
  | cons b d ih => exact ih (adlerStep_lt p b)

/-! The meanings over a shared operation, as equations. -/

theorem exec_crcBlock (s : State) : exec .crcBlock s =
    withBlock 0x03000000#32 s fun d => .next (s.setCrcAcc (crcUpd s.crcAcc d)) := rfl

theorem exec_crcOneshot (s : State) : exec .crcOneshot s =
    withBlock 0x05000000#32 s fun d => .next (s.setResult (crc32 d)) := rfl

theorem exec_adlerBlock (s : State) : exec .adlerBlock s =
    withBlock 0x12000000#32 s fun d => .next (s.setSums (adlerUpd (s.s1, s.s2) d)) := rfl

theorem exec_adlerOneshot (s : State) : exec .adlerOneshot s =
    withBlock 0x14000000#32 s fun d => .next (s.setResult (adler32 d)) := rfl

theorem exec_writeIhdr (s : State) : exec .writeIhdr s =
    admitChunk .ihdr 0x31000000#32 s (appendChunk .ihdr (ihdrPayload s) 0x31000000#32 s) := rfl

theorem exec_writeIdat (s : State) : exec .writeIdat s =
    admitChunk .idat 0x32000000#32 s (withBlock 0x32000000#32 s fun raw =>
      match zlibEnvelope s.par s.cinfo s.level raw with
      | .err e => raiseFault .deflateFail e s
      | .ok p => appendChunk .idat p 0x32000000#32 s) := rfl

theorem exec_writeIend (s : State) : exec .writeIend s =
    admitChunk .iend 0x33000000#32 s (appendChunk .iend [] 0x33000000#32 s) := rfl

/-! The envelope. -/

theorem zlibEnvelope_ok {p : Params} {level : BitVec 2} {raw c : List Byte} (h : deflate p level raw = .ok c)
    (cinfo : BitVec 4) :
    zlibEnvelope p cinfo level raw = .ok ([cmf cinfo, flg cinfo level] ++ c ++ be32 (adler32 raw)) := by
  simp [zlibEnvelope, h]

theorem zlibEnvelope_err {p : Params} {level : BitVec 2} {raw : List Byte} {e : Word} (h : deflate p level raw = .err e)
    (cinfo : BitVec 4) : zlibEnvelope p cinfo level raw = .err e := by simp [zlibEnvelope, h]

/-- Everything WRITE_IDAT can do once it is admitted and its block is in range. -/
theorem zlibEnvelope_cases (p : Params) (cinfo : BitVec 4) (level : BitVec 2) (raw : List Byte) :
    (∃ e, deflate p level raw = .err e ∧ zlibEnvelope p cinfo level raw = .err e) ∨
    (∃ c, deflate p level raw = .ok c ∧
      zlibEnvelope p cinfo level raw = .ok ([cmf cinfo, flg cinfo level] ++ c ++ be32 (adler32 raw))) := by
  cases h : deflate p level raw with
  | err e => exact .inl ⟨e, rfl, zlibEnvelope_err h cinfo⟩
  | ok c => exact .inr ⟨c, rfl, zlibEnvelope_ok h cinfo⟩

/-- The command that writes a chunk of a kind. -/
def chunkCommand : Chunk → Instr
  | .ihdr => .writeIhdr
  | .idat => .writeIdat
  | .iend => .writeIend

/-- What a command that is no stream command can change: CRC_ACC, the sums and RESULT. -/
def checksumState (acc : Word) (p : BitVec 16 × BitVec 16) (res : Word) (s : State) : State :=
  ((s.setCrcAcc acc).setSums p).setResult res

/-- Everything a command can do to a state. -/
inductive CommandEffect (i : Instr) (s : State) : State → Prop
  /-- It records a fault and changes nothing else. -/
  | faulted (c : FaultCode) (w : Word) (hn : c ≠ .none) (hi : c ≠ .illegalCmd) :
      CommandEffect i s (recordFault c w s)
  /-- A checksum command writes CRC_ACC, the sums or RESULT. -/
  | checksum (acc : Word) (p : BitVec 16 × BitVec 16) (res : Word) (hi : isStreamCommand i = false)
      (hp : s.s1.toNat < 65521 ∧ s.s2.toNat < 65521 → p.1.toNat < 65521 ∧ p.2.toNat < 65521) :
      CommandEffect i s (checksumState acc p res s)
  /-- STREAM_NEW starts a stream. -/
  | newStream (hi : i = .streamNew) :
      CommandEffect i s ((outAppend signature (s.setOut s.outMem 0#32)).setSeq .haveSignature)
  /-- A WRITE_* command appends a chunk that fits. -/
  | chunk (k : Chunk) (p : List Byte) (hi : i = chunkCommand k) (hs : s.seq ≠ .start)
      (hf : s.outLen.toNat + (12 + p.length) ≤ s.par.outCap) : CommandEffect i s (chunkWritten k p s)

/-- The end of a chunk write has one of those effects. -/
theorem appendChunk_effect {i : Instr} {s t : State} {k : Chunk} {p : List Byte} {cmd : Word}
    (h : appendChunk k p cmd s = .next t) (hi : i = chunkCommand k) (hs : s.seq ≠ .start) : CommandEffect i s t := by
  rcases appendChunk_cases h with ⟨hf, ht⟩ | ⟨-, ht⟩ <;> cases ht
  · exact .chunk k p hi hs hf
  · exact .faulted _ _ (by simp) (by simp)

/-- Everything a command can do: record a fault; write CRC_ACC, the sums or RESULT; start a stream; append a chunk. -/
theorem exec_cases {i : Instr} {s t : State} (h : exec i s = .next t) : CommandEffect i s t := by
  have res : ∀ v, isStreamCommand i = false → CommandEffect i s (s.setResult v) := fun v hi =>
    .checksum s.crcAcc (s.s1, s.s2) v hi id
  have acc : ∀ v, isStreamCommand i = false → CommandEffect i s (s.setCrcAcc v) := fun v hi =>
    .checksum v (s.s1, s.s2) s.result hi id
  have sums : ∀ p : BitVec 16 × BitVec 16, isStreamCommand i = false →
      (s.s1.toNat < 65521 ∧ s.s2.toNat < 65521 → p.1.toNat < 65521 ∧ p.2.toNat < 65521) →
      CommandEffect i s (s.setSums p) := fun p hi hp => .checksum s.crcAcc p s.result hi hp
  have fault : ∀ c w, c ≠ .none → c ≠ .illegalCmd → (Host.Outcome.next t : Result) = .next (recordFault c w s) →
      CommandEffect i s t := fun c w hn hi ht => by cases ht; exact .faulted c w hn hi
  cases i with
  | crcInit => cases h; exact acc _ rfl
  | crcByte b => cases h; exact acc _ rfl
  | crcFinal => cases h; exact res _ rfl
  | crcTblRead b => cases h; exact res _ rfl
  | adlerInit => cases h; exact sums _ rfl fun _ => by decide
  | adlerByte b => cases h; exact sums _ rfl fun _ => adlerStep_lt _ _
  | adlerFinal => cases h; exact res _ rfl
  | zlibHdr => cases h; exact res _ rfl
  | crcBlock =>
    rw [exec_crcBlock] at h
    rcases withBlock_cases h with ⟨-, ht⟩ | ⟨-, ht⟩
    · cases ht; exact acc _ rfl
    · exact fault _ _ (by simp) (by simp) ht
  | crcOneshot =>
    rw [exec_crcOneshot] at h
    rcases withBlock_cases h with ⟨-, ht⟩ | ⟨-, ht⟩
    · cases ht; exact res _ rfl
    · exact fault _ _ (by simp) (by simp) ht
  | adlerBlock =>
    rw [exec_adlerBlock] at h
    rcases withBlock_cases h with ⟨-, ht⟩ | ⟨-, ht⟩
    · cases ht; exact sums _ rfl fun hp => adlerUpd_lt hp _
    · exact fault _ _ (by simp) (by simp) ht
  | adlerOneshot =>
    rw [exec_adlerOneshot] at h
    rcases withBlock_cases h with ⟨-, ht⟩ | ⟨-, ht⟩
    · cases ht; exact res _ rfl
    · exact fault _ _ (by simp) (by simp) ht
  | streamNew => cases h; exact .newStream rfl
  | writeIhdr =>
    rw [exec_writeIhdr] at h
    rcases admitChunk_cases h with ⟨-, ht⟩ | ⟨-, -, -, ht⟩ | ⟨hs, -, ht⟩
    · exact fault _ _ (by simp) (by simp) ht
    · exact fault _ _ (by simp) (by simp) ht
    · exact appendChunk_effect ht.symm rfl hs
  | writeIend =>
    rw [exec_writeIend] at h
    rcases admitChunk_cases h with ⟨-, ht⟩ | ⟨-, -, -, ht⟩ | ⟨hs, -, ht⟩
    · exact fault _ _ (by simp) (by simp) ht
    · exact fault _ _ (by simp) (by simp) ht
    · exact appendChunk_effect ht.symm rfl hs
  | writeIdat =>
    rw [exec_writeIdat] at h
    rcases admitChunk_cases h with ⟨-, ht⟩ | ⟨-, -, -, ht⟩ | ⟨hs, -, ht⟩
    · exact fault _ _ (by simp) (by simp) ht
    · exact fault _ _ (by simp) (by simp) ht
    · rcases withBlock_cases ht.symm with ⟨-, ht⟩ | ⟨-, ht⟩
      · cases hz : zlibEnvelope s.par s.cinfo s.level (blockBytes s) with
        | err e => rw [hz] at ht; exact fault .deflateFail e (by simp) (by simp) ht
        | ok p => rw [hz] at ht; exact appendChunk_effect ht.symm rfl hs
      · exact fault _ _ (by simp) (by simp) ht

/-- Every command answers a next state: no command stops the machine. -/
theorem exec_next (i : Instr) (s : State) : ∃ t, exec i s = .next t := by
  cases h : exec i s with
  | next t => exact ⟨t, rfl⟩
  | fault e => cases e
  | refused e =>
    exfalso
    revert h
    cases i <;>
      simp only [exec, execCrcInit, execCrcByte, execCrcBlock, execCrcFinal, execCrcOneshot, execCrcTblRead,
        execAdlerInit, execAdlerByte, execAdlerBlock, execAdlerFinal, execAdlerOneshot, execZlibHdr, execStreamNew,
        execWriteIhdr, execWriteIdat, execWriteIend, withBlock, admitChunk, appendChunk, raiseFault] <;>
      (repeat' split) <;> simp

/-- Everything the issue of a command word can do. -/
theorem issueCommand_cases {w : Word} {s t : State} (h : issueCommand w s = .next t) :
    (s.fault = true ∧ t = s) ∨
    (s.fault = false ∧ (∃ why, decode w = .illegal why) ∧ t = recordFault .illegalCmd w s) ∨
    (s.fault = false ∧ ∃ i, decode w = .command i ∧ exec i s = .next t) := by
  unfold issueCommand at h
  cases hf : s.fault with
  | true => simp only [hf, if_true, Host.Outcome.next.injEq] at h; exact .inl ⟨rfl, h.symm⟩
  | false =>
    simp only [hf, Bool.false_eq_true, if_false] at h
    cases hd : decode w with
    | command i => rw [hd] at h; exact .inr (.inr ⟨rfl, i, rfl, h⟩)
    | illegal why =>
      rw [hd] at h
      exact .inr (.inl ⟨rfl, ⟨why, rfl⟩, by simpa [raiseFault] using h.symm⟩)

/-- Everything a register write can do: issue a command, or store. -/
theorem regWrite_cases {o v : Word} {s t : State} (h : regWrite o v s = .next t) :
    (regAt o = some .cmd ∧ issueCommand v s = .next t) ∨
    (regAt o = none ∧ t = s) ∨ (∃ r, regAt o = some r ∧ r ≠ .cmd ∧ t = storeReg v s r) := by
  unfold regWrite at h
  cases hr : regAt o with
  | none => rw [hr] at h; exact .inr (.inl ⟨rfl, by simpa using h.symm⟩)
  | some r =>
    rw [hr] at h
    by_cases hc : r = .cmd
    · subst hc; exact .inl ⟨rfl, by simpa using h⟩
    · exact .inr (.inr ⟨r, rfl, hc, by simpa [hc] using h.symm⟩)

/-- Every operation answers a next state. -/
theorem perform_next (op : HostOp) (s : State) : ∃ t, perform op s = .next t := by
  cases op with
  | regWrite o v =>
    show ∃ t, regWrite o v s = .next t
    unfold regWrite issueCommand
    repeat' split
    all_goals first | exact ⟨_, rfl⟩ | exact exec_next _ _
  | reset => exact ⟨_, rfl⟩
  | regRead o => exact ⟨_, rfl⟩
  | inWrite a b => exact ⟨_, rfl⟩
  | inRead a => exact ⟨_, rfl⟩
  | outRead a => exact ⟨_, rfl⟩

/-- A step performs the next operation and advances the index; with none left it changes nothing. -/
theorem step_of_op {s : State} {op : HostOp} (h : s.program[s.opIndex]? = some op) :
    step s = onNext State.advance (perform op s) := by simp [step, runNextOp, nextOp, h]

theorem step_idle {s : State} (h : s.program[s.opIndex]? = none) : step s = .next s := by
  simp [step, runNextOp, nextOp, h]

/-- Everything a step can do. -/
theorem step_cases {s t : State} (h : step s = .next t) :
    (s.program[s.opIndex]? = none ∧ t = s) ∨
    (∃ op u, s.program[s.opIndex]? = some op ∧ perform op s = .next u ∧ t = u.advance) := by
  cases hp : s.program[s.opIndex]? with
  | none => rw [step_idle hp] at h; exact .inl ⟨rfl, by simpa using h.symm⟩
  | some op =>
    rw [step_of_op hp] at h
    obtain ⟨u, hu, ht⟩ := onNext_eq_next h
    exact .inr ⟨op, u, rfl, hu, ht⟩

/-- A completed chunk write appends its frame. -/
theorem appended_chunkWritten {k : Chunk} {p : List Byte} {s : State}
    (h : s.outLen.toNat + (12 + p.length) < 4294967296) : Appended (frame (tag k) p) s (chunkWritten k p s) where
  outLen := by rw [chunkWritten_outLen h, frame_length]
  bytes a := by
    rw [chunkWritten_outByte]
    split
    · rename_i ha
      obtain ⟨n, rfl⟩ := Nat.exists_eq_add_of_le ha.1
      have hn : n < (frame (tag k) p).length := by omega
      rw [outByte_outAppend_inside _ s n hn]
      simp only [Nat.add_sub_cancel_left, List.getD_eq_getElem?_getD, List.getElem?_eq_getElem hn, Option.getD_some]
    · rename_i ha
      exact outByte_outAppend_outside _ s a (by omega)

end Sys2Proof.Machine
end

