-- ==== Sys2Proof/Laws/HostOps.lean ====
section
/-! SUPPORT. The register map and the host's operations: which offset names which register, and what a host write, read or
CMD write makes of a state. -/

namespace Sys2Proof.Machine

/-- The masked offset of a register access: one of the sixteen multiples of 4. -/
theorem maskedOffset (o : Word) : (o &&& 0x3C#32).toNat = o.toNat % 64 / 4 * 4 := by
  rw [BitVec.toNat_and, show (0x3C#32).toNat = 60 from rfl]
  apply Nat.eq_of_testBit_eq
  intro i
  rw [show o.toNat % 64 / 4 * 4 = (o.toNat % 2 ^ 6 / 2 ^ 2) <<< 2 by rw [Nat.shiftLeft_eq]; rfl, Nat.testBit_and,
    Nat.testBit_shiftLeft, Nat.testBit_div_two_pow, Nat.testBit_mod_two_pow]
  rcases Nat.lt_or_ge i 6 with h6 | h6
  · have : i = 0 ∨ i = 1 ∨ i = 2 ∨ i = 3 ∨ i = 4 ∨ i = 5 := by omega
    rcases this with rfl | rfl | rfl | rfl | rfl | rfl <;> simp [Nat.testBit]
  · have h0 : Nat.testBit 60 i = false :=
      Nat.testBit_lt_two_pow (Nat.lt_of_lt_of_le (by decide : 60 < 2 ^ 6) (Nat.pow_le_pow_right (by decide) h6))
    rw [h0, decide_eq_false (by omega : ¬ i - 2 + 2 < 6)]
    simp

/-- An offset below 0x40 names the register at its multiple of 4; an offset at or above names none (10_state.md R24). -/
theorem regAt_lt {o : Word} (h : o.toNat < 0x40) : regAt o = regMap[o.toNat / 4]? := by
  have : o.toNat % 64 / 4 * 4 / 4 = o.toNat / 4 := by omega
  rw [regAt, if_pos h, maskedOffset, this]

theorem regAt_ge {o : Word} (h : 0x40 ≤ o.toNat) : regAt o = none := by
  simp [regAt, Nat.not_lt.2 h]

/-- Only the offsets 0 to 3 name CMD. -/
theorem regAt_eq_cmd {o : Word} : regAt o = some .cmd ↔ o.toNat < 4 := by
  constructor
  · intro h
    by_contra hn
    by_cases h4 : o.toNat < 0x40
    · rw [regAt_lt h4] at h
      have : o.toNat / 4 = 1 ∨ o.toNat / 4 = 2 ∨ o.toNat / 4 = 3 ∨ o.toNat / 4 = 4 ∨ o.toNat / 4 = 5 ∨
          o.toNat / 4 = 6 ∨ o.toNat / 4 = 7 ∨ o.toNat / 4 = 8 ∨ o.toNat / 4 = 9 ∨ o.toNat / 4 = 10 ∨
          o.toNat / 4 = 11 ∨ o.toNat / 4 = 12 ∨ o.toNat / 4 = 13 ∨ o.toNat / 4 = 14 ∨ o.toNat / 4 = 15 := by omega
      rcases this with e | e | e | e | e | e | e | e | e | e | e | e | e | e | e <;> rw [e] at h <;> cases h
    · rw [regAt_ge (by omega)] at h; cases h
  · intro h
    rw [regAt_lt (by omega), show o.toNat / 4 = 0 by omega]; rfl

/-- A field above another in a number: an or of disjoint fields is a sum. -/
theorem or_eq_add {x y : Nat} (n : Nat) (h : y < 2 ^ n) : (x * 2 ^ n) ||| y = x * 2 ^ n + y := by
  rw [Nat.mul_comm, Nat.two_pow_add_eq_or_of_lt h]

/-- A field placed at bit n of a 32-bit register, in integers. -/
theorem placed_toNat {m : Nat} (a : BitVec m) (n : Nat) (h : m + n ≤ 32) :
    (a.setWidth 32 <<< n).toNat = a.toNat * 2 ^ n := by
  have hlt : a.toNat < 2 ^ (32 - n) := Nat.lt_of_lt_of_le a.isLt (Nat.pow_le_pow_right (by decide) (by omega))
  have h2 : (2 : Nat) ^ 32 = 2 ^ (32 - n) * 2 ^ n := by rw [← Nat.pow_add]; congr 1; omega
  have h3 : (2 : Nat) ^ (32 - n) ≤ 2 ^ 32 := Nat.pow_le_pow_right (by decide) (by omega)
  rw [BitVec.toNat_shiftLeft, BitVec.toNat_setWidth, Nat.shiftLeft_eq, Nat.mod_eq_of_lt (Nat.lt_of_lt_of_le hlt h3),
    Nat.mod_eq_of_lt (by rw [h2]; exact Nat.mul_lt_mul_of_pos_right hlt (Nat.two_pow_pos n))]

/-- A CMD write issues its word, and then the index advances (45_host_ops.md R232). -/
theorem step_of_writesCmd {s : State} {w : Word} (h : writesCmd w s) :
    step s = onNext State.advance (issueCommand w s) := by
  obtain ⟨o, ho, hp⟩ := h
  have : perform (.regWrite o w) s = issueCommand w s := by
    show regWrite o w s = _
    simp [regWrite, regAt_eq_cmd.2 ho]
  rw [step_of_op hp, this]

/-- A discarded, an illegal and a legal word, issued. -/
theorem issueCommand_faulted {s : State} (h : s.fault = true) (w : Word) : issueCommand w s = .next s := by
  simp [issueCommand, h]

theorem issueCommand_illegal {s : State} {w : Word} {why : IllegalWord} (h : s.fault = false)
    (hd : decode w = .illegal why) : issueCommand w s = .next (recordFault .illegalCmd w s) := by
  simp [issueCommand, h, hd, raiseFault]

theorem issueCommand_legal {s : State} {w : Word} {i : Instr} (h : s.fault = false) (hd : decode w = .command i) :
    issueCommand w s = exec i s := by simp [issueCommand, h, hd]

/-- What a host write of IN does to every byte. -/
theorem inByte_inWrite (a : Word) (b : Byte) (s : State) (x : Nat) :
    inByte (inWrite a b s) x = if x = a.toNat ∧ a.toNat < s.par.inCap then b else inByte s x := by
  unfold inWrite
  by_cases hc : a.toNat < s.par.inCap
  · by_cases hx : x = a.toNat
    · subst hx; simp [hc, inByte]
    · simp [hc, hx, inByte, read_write_other hx]
  · simp [hc]

/-- A host write of IN changes IN and nothing else. -/
theorem inWrite_rest (a : Word) (b : Byte) (s : State) :
    inWrite a b s = { s with inMem := (inWrite a b s).inMem } := by
  unfold inWrite; split <;> rfl

/-- An OUT read changes the values read and the draw counter and nothing else. -/
theorem performOutRead_rest (a : Word) (s : State) :
    performOutRead a s = { s with
      readLog := s.readLog ++ [.byte (outRead s a)], outDraws := (performOutRead a s).outDraws } := by
  unfold performOutRead; dsimp only; split <;> rfl

/-- The effect of an operation that is neither RESET nor a CMD write on the block: none but on a read-write register or
IN; and never on SEQ, the fault record, OUT, CRC results, the parameters or the host's list. -/
theorem perform_other {op : HostOp} {s t : State} (h : perform op s = .next t) (hr : op ≠ .reset)
    (hc : ∀ o w, op = .regWrite o w → regAt o ≠ some .cmd) :
    t.seq = s.seq ∧ t.fault = s.fault ∧ t.faultCode = s.faultCode ∧ t.faultInfo = s.faultInfo ∧
    t.outLen = s.outLen ∧ t.outMem = s.outMem ∧ t.par = s.par ∧ t.s1 = s.s1 ∧ t.s2 = s.s2 ∧ t.result = s.result ∧
    t.program = s.program ∧ t.opIndex = s.opIndex := by
  cases op with
  | reset => exact absurd rfl hr
  | regWrite o w =>
    rcases regWrite_cases h with ⟨hk, -⟩ | ⟨-, rfl⟩ | ⟨r, -, -, rfl⟩
    · exact absurd hk (hc o w rfl)
    · simp
    · simp
  | regRead o => cases h; simp
  | inWrite a b =>
    have : t = inWrite a b s := by simpa [perform] using h.symm
    rw [this, inWrite_rest]; simp
  | inRead a => cases h; simp
  | outRead a =>
    have : t = performOutRead a s := by simpa [perform] using h.symm
    rw [this, performOutRead_rest]; simp

end Sys2Proof.Machine
end

