-- ==== Sys2Proof/Laws/PerInstr.lean ====
section
/-! SUPPORT. Per instruction, as syntax: it is well formed, and its word is one that a row of the opcode map matches and
builds it from (30_encoding.md R91 to R94). -/

namespace Sys2Proof.Laws.Encoding

/-- The instruction is well formed and its word matches the row of its own OP, which gives it back. -/
def Statement (i : Instr) : Prop :=
  i.wf = true ∧ ∃ r ∈ opcodeTable, r.fits (encode i) ∧ r.op = opField (encode i) ∧ r.build (imm8Field (encode i)) = i

/-- A format-N word of a row. -/
theorem of_formatN {i : Instr} (r : OpcodeRow) (hr : r ∈ opcodeTable) (hf : r.format = .n) (hw : i.wf = true)
    (he : encode i = wordN r.op) (hb : r.build (imm8Field (encode i)) = i) : Statement i := by
  have fit : r.fits (encode i) := by unfold OpcodeRow.fits; rw [hf, he]; exact wordN_toNat r.op
  exact ⟨hw, r, hr, fit, BitVec.eq_of_toNat_eq (by rw [op_of_fits fit, opField_toNat]), hb⟩

/-- A format-B word of a row. -/
theorem of_formatB {i : Instr} (r : OpcodeRow) (b : Byte) (hr : r ∈ opcodeTable) (hf : r.format = .b)
    (hw : i.wf = true) (he : encode i = wordB r.op b) (hb : r.build b = i) : Statement i := by
  have fit : r.fits (encode i) := by
    unfold OpcodeRow.fits; rw [hf, he]; simp only [wordB_toNat]; have := b.isLt; omega
  exact ⟨hw, r, hr, fit, BitVec.eq_of_toNat_eq (by rw [op_of_fits fit, opField_toNat]), by rw [he, imm8Field_wordB, hb]⟩

theorem crcInit : Statement .crcInit := of_formatN ⟨0x01#8, .n, fun _ => .crcInit⟩ (by simp [opcodeTable]) rfl rfl rfl rfl
theorem crcByte (imm8 : Byte) : Statement (.crcByte imm8) :=
  of_formatB ⟨0x02#8, .b, .crcByte⟩ imm8 (by simp [opcodeTable]) rfl rfl rfl rfl
theorem crcBlock : Statement .crcBlock := of_formatN ⟨0x03#8, .n, fun _ => .crcBlock⟩ (by simp [opcodeTable]) rfl rfl rfl rfl
theorem crcFinal : Statement .crcFinal := of_formatN ⟨0x04#8, .n, fun _ => .crcFinal⟩ (by simp [opcodeTable]) rfl rfl rfl rfl
theorem crcOneshot : Statement .crcOneshot :=
  of_formatN ⟨0x05#8, .n, fun _ => .crcOneshot⟩ (by simp [opcodeTable]) rfl rfl rfl rfl
theorem crcTblRead (imm8 : Byte) : Statement (.crcTblRead imm8) :=
  of_formatB ⟨0x06#8, .b, .crcTblRead⟩ imm8 (by simp [opcodeTable]) rfl rfl rfl rfl
theorem adlerInit : Statement .adlerInit :=
  of_formatN ⟨0x10#8, .n, fun _ => .adlerInit⟩ (by simp [opcodeTable]) rfl rfl rfl rfl
theorem adlerByte (imm8 : Byte) : Statement (.adlerByte imm8) :=
  of_formatB ⟨0x11#8, .b, .adlerByte⟩ imm8 (by simp [opcodeTable]) rfl rfl rfl rfl
theorem adlerBlock : Statement .adlerBlock :=
  of_formatN ⟨0x12#8, .n, fun _ => .adlerBlock⟩ (by simp [opcodeTable]) rfl rfl rfl rfl
theorem adlerFinal : Statement .adlerFinal :=
  of_formatN ⟨0x13#8, .n, fun _ => .adlerFinal⟩ (by simp [opcodeTable]) rfl rfl rfl rfl
theorem adlerOneshot : Statement .adlerOneshot :=
  of_formatN ⟨0x14#8, .n, fun _ => .adlerOneshot⟩ (by simp [opcodeTable]) rfl rfl rfl rfl
theorem zlibHdr : Statement .zlibHdr := of_formatN ⟨0x20#8, .n, fun _ => .zlibHdr⟩ (by simp [opcodeTable]) rfl rfl rfl rfl
theorem streamNew : Statement .streamNew :=
  of_formatN ⟨0x30#8, .n, fun _ => .streamNew⟩ (by simp [opcodeTable]) rfl rfl rfl rfl
theorem writeIhdr : Statement .writeIhdr :=
  of_formatN ⟨0x31#8, .n, fun _ => .writeIhdr⟩ (by simp [opcodeTable]) rfl rfl rfl rfl
theorem writeIdat : Statement .writeIdat :=
  of_formatN ⟨0x32#8, .n, fun _ => .writeIdat⟩ (by simp [opcodeTable]) rfl rfl rfl rfl
theorem writeIend : Statement .writeIend :=
  of_formatN ⟨0x33#8, .n, fun _ => .writeIend⟩ (by simp [opcodeTable]) rfl rfl rfl rfl

end Sys2Proof.Laws.Encoding
end

