-- ==== Sys2Proof/Tests/Slice0.lean ====
section
/-! SUPPORT. Tests: ill-formed parameters refused, decoding of words written out from 30_encoding.md, one-step results
from 95_test_vectors.md, and for every obligation with hypotheses a witness that meets them together. -/

namespace Sys2Proof.Tests

open Sys2Proof Sys2Proof.Machine

/-! ### Well-formedness: each bound of 00_scope.md R5 -/

/-- Parameters with the given capacities, zero power-up memories, and DEFLATE_STORED (95_test_vectors.md section 0) on the
empty input and on two zero bytes, and an error on one byte 42. -/
def params (inCap outCap : Nat) : Params where
  inCap := inCap
  outCap := outCap
  inInit := []
  outInit := []
  deflateKnown :=
    [ ⟨2#2, [], .ok [0x01#8, 0x00#8, 0x00#8, 0xFF#8, 0xFF#8]⟩,
      ⟨2#2, [0x00#8, 0x00#8], .ok [0x01#8, 0x02#8, 0x00#8, 0xFD#8, 0xFF#8, 0x00#8, 0x00#8]⟩,
      ⟨2#2, [0x42#8], .err 0x0000BEEF#32⟩ ]

theorem test_params_smallest_are_wf : (params 1 8).wf := by decide
theorem test_params_largest_are_wf : (params 4294967296 4294967295).wf := by decide
theorem test_params_refuse_no_input : ¬ (params 0 8).wf := by decide
theorem test_params_refuse_too_much_input : ¬ (params 4294967297 8).wf := by decide
theorem test_params_refuse_output_below_signature : ¬ (params 1 7).wf := by decide
theorem test_params_refuse_too_much_output : ¬ (params 1 4294967296).wf := by decide
theorem test_instr_wf : (Instr.crcByte 0xFF#8).wf = true ∧ Instr.writeIend.wf = true := by decide

/-! ### Decoding: each row of R93, its word written bit by bit (OP, then OPERAND) -/

theorem test_decode_crcInit : decode 0b00000001000000000000000000000000#32 = .command .crcInit := by decide
theorem test_decode_crcByte : decode 0b00000010000000000000000010100101#32 = .command (.crcByte 0xA5#8) := by decide
theorem test_decode_crcBlock : decode 0b00000011000000000000000000000000#32 = .command .crcBlock := by decide
theorem test_decode_crcFinal : decode 0b00000100000000000000000000000000#32 = .command .crcFinal := by decide
theorem test_decode_crcOneshot : decode 0b00000101000000000000000000000000#32 = .command .crcOneshot := by decide
theorem test_decode_crcTblRead : decode 0b00000110000000000000000010000001#32 = .command (.crcTblRead 0x81#8) := by decide
theorem test_decode_adlerInit : decode 0b00010000000000000000000000000000#32 = .command .adlerInit := by decide
theorem test_decode_adlerByte : decode 0b00010001000000000000000000001111#32 = .command (.adlerByte 0x0F#8) := by decide
theorem test_decode_adlerBlock : decode 0b00010010000000000000000000000000#32 = .command .adlerBlock := by decide
theorem test_decode_adlerFinal : decode 0b00010011000000000000000000000000#32 = .command .adlerFinal := by decide
theorem test_decode_adlerOneshot : decode 0b00010100000000000000000000000000#32 = .command .adlerOneshot := by decide
theorem test_decode_zlibHdr : decode 0b00100000000000000000000000000000#32 = .command .zlibHdr := by decide
theorem test_decode_streamNew : decode 0b00110000000000000000000000000000#32 = .command .streamNew := by decide
theorem test_decode_writeIhdr : decode 0b00110001000000000000000000000000#32 = .command .writeIhdr := by decide
theorem test_decode_writeIdat : decode 0b00110010000000000000000000000000#32 = .command .writeIdat := by decide
theorem test_decode_writeIend : decode 0b00110011000000000000000000000000#32 = .command .writeIend := by decide

/-- 95_test_vectors.md L2.7: the unassigned OP values. -/
theorem test_decode_unassigned :
    [0x00000000#32, 0xFFFFFFFF#32, 0x07000000#32, 0x34000000#32].map decode =
      List.replicate 4 (.illegal .unassignedOp) := by decide

/-- 95_test_vectors.md L2.7: OPERAND bits that the format requires to be 0. -/
theorem test_decode_operandBits :
    [0x01000001#32, 0x20000001#32, 0x02000100#32, 0x06800000#32].map decode =
      List.replicate 4 (.illegal .operandBits) := by decide

theorem test_decodeTableWord : decodeTableWord 32 0x02000049 = some (.crcByte 0x49#8) ∧
    decodeTableWord 32 0x33000000 = some .writeIend ∧ decodeTableWord 32 0x07000000 = none := by decide

/-! ### Small machines -/

/-- The machine after power-up with the given capacities, and one operation for the host to perform. -/
def small (inCap outCap : Nat) (op : HostOp) : State :=
  { State.reset with par := params inCap outCap, program := [op] }

/-- A command word, written to CMD by its last alias. -/
def cmd (w : Word) : HostOp := .regWrite 0x03#32 w

/-- s with bytes in IN from address 0. -/
def withIn (bs : List Byte) (s : State) : State := { s with inMem := Memory.writeBytes s.par.inInit [] 0 bs }

/-- s with SRC_ADDR and SRC_LEN. -/
def withSrc (a n : Word) (s : State) : State := { s with srcAddr := a, srcLen := n }

/-- s as STREAM_NEW leaves it (95_test_vectors.md L1.9). -/
def opened (s : State) : State :=
  { s with
    outMem := [(0, 0x89#8), (1, 0x50#8), (2, 0x4E#8), (3, 0x47#8), (4, 0x0D#8), (5, 0x0A#8), (6, 0x1A#8), (7, 0x0A#8)],
    outLen := 8#32, seq := .haveSignature }

/-- s as STREAM_NEW and WRITE_IHDR leave SEQ and OUT_LEN. -/
def headed (s : State) : State := { opened s with outLen := 33#32, seq := .haveHeader }

/-- What f says of the next state of an answer. -/
def after {α : Type} (r : Result) (f : State → α) : Option α :=
  match r with
  | .next t => some (f t)
  | .fault _ => none
  | .refused _ => none

/-- The next state of an answer, or a state to stand in for it. -/
def nextOf (r : Result) (s : State) : State :=
  match r with
  | .next t => t
  | .fault _ => s
  | .refused _ => s

theorem next_of_after {r : Result} (s : State) (h : after r (fun _ => ()) = some ()) : r = .next (nextOf r s) := by
  cases r with
  | next t => rfl
  | fault e => cases h
  | refused e => cases h

/-- STATUS and FAULT_INFO after a step. -/
def faultRecord (s : State) : Option (Word × Word) := after (step s) fun t => (regRead t 0x04#32, regRead t 0x0C#32)

/-! ### One step each, from 95_test_vectors.md -/

-- L2.1
theorem test_crcInit : after (step { small 16 64 (cmd 0x01000000#32) with crcAcc := 0x53BF444F#32 }) (·.crcAcc) =
    some 0xFFFFFFFF#32 := by decide
theorem test_crcByte : after (step (small 16 64 (cmd 0x02000049#32))) (·.crcAcc) = some 0x22FDE946#32 := by decide
theorem test_crcBlock :
    after (step (withSrc 0#32 4#32 (withIn [0x49#8, 0x48#8, 0x44#8, 0x52#8] (small 16 64 (cmd 0x03000000#32)))))
      (·.crcAcc) = some 0x575E51F5#32 := by decide +kernel
theorem test_crcFinal : after (step { small 16 64 (cmd 0x04000000#32) with crcAcc := 0x53BF444F#32 })
    (fun t => (t.result, t.crcAcc)) = some (0xAC40BBB0#32, 0x53BF444F#32) := by decide
theorem test_crcOneshot_whole_input : after (step (withSrc 0#32 16#32 (small 16 64 (cmd 0x05000000#32)))) (·.result) =
    some 0xECBB4B55#32 := by decide +kernel
theorem test_crcOneshot_no_wrap : faultRecord (withSrc 0xFFFFFFFF#32 2#32 (small 16 64 (cmd 0x05000000#32))) =
    some (0x00000408#32, 0x05000000#32) := by decide
theorem test_crcTblRead : [0x06000080#32, 0x060000FF#32].map (fun w => after (step (small 16 64 (cmd w))) (·.result)) =
    [some 0xEDB88320#32, some 0x2D02EF8D#32] := by decide +kernel
-- L2.2
theorem test_adlerInit : after (step { small 16 64 (cmd 0x10000000#32) with s1 := 920#16, s2 := 4582#16 })
    (fun t => regRead t 0x1C#32) = some 0x00000001#32 := by decide
theorem test_adlerByte : after (step (small 16 64 (cmd 0x110000FF#32))) (fun t => regRead t 0x1C#32) =
    some 0x01000100#32 := by decide
theorem test_adlerByte_wraps : [adlerStep (65520#16, 65520#16) 0x01#8, adlerStep (65520#16, 0#16) 0xFF#8] =
    [(0#16, 65520#16), (254#16, 254#16)] := by decide
theorem test_adlerBlock :
    after (step (withSrc 0#32 9#32 (withIn [0x57#8, 0x69#8, 0x6B#8, 0x69#8, 0x70#8, 0x65#8, 0x64#8, 0x69#8, 0x61#8]
      (small 16 64 (cmd 0x12000000#32))))) (fun t => (t.s1, t.s2)) = some (920#16, 4582#16) := by decide +kernel
theorem test_adlerFinal : after (step { small 16 64 (cmd 0x13000000#32) with s1 := 920#16, s2 := 4582#16 }) (·.result) =
    some 0x11E60398#32 := by decide
theorem test_adlerOneshot_empty_at_end : after (step (withSrc 16#32 0#32 (small 16 64 (cmd 0x14000000#32))))
    (fun t => (t.result, regRead t 0x04#32)) = some (0x00000001#32, 0x00000000#32) := by decide
-- L2.3
theorem test_zlibHdr : [(6#4, 2#2), (6#4, 0#2), (14#4, 2#2), (15#4, 0#2)].map
    (fun c => after (step { small 16 64 (cmd 0x20000000#32) with cinfo := c.1, level := c.2 }) (·.result)) =
    [some 0x00006881#32, some 0x00006805#32, some 0x0000E89F#32, some 0x0000F81F#32] := by decide
theorem test_envelope : zlibEnvelope (params 16 64) 6#4 2#2 [0x00#8, 0x00#8] =
    .ok [0x68#8, 0x81#8, 0x01#8, 0x02#8, 0x00#8, 0xFD#8, 0xFF#8, 0x00#8, 0x00#8, 0x00#8, 0x02#8, 0x00#8, 0x01#8] := by
  decide
-- L1.9, L2.5
theorem test_streamNew : after (step (small 16 64 (cmd 0x30000000#32))) (fun t => (outBytes t, regRead t 0x04#32)) =
    some ([0x89#8, 0x50#8, 0x4E#8, 0x47#8, 0x0D#8, 0x0A#8, 0x1A#8, 0x0A#8], 0x00000001#32) := by decide +kernel
theorem test_writeIhdr :
    after (step { opened (small 16 64 (cmd 0x31000000#32)) with
      ihdrWidth := 0x177#32, ihdrHeight := 0x168#32, bitDepth := 8#8, colorType := 6#8 })
      (fun t => ((outBytes t).drop 8, t.result)) =
    some ([0x00#8, 0x00#8, 0x00#8, 0x0D#8, 0x49#8, 0x48#8, 0x44#8, 0x52#8, 0x00#8, 0x00#8, 0x01#8, 0x77#8] ++
      [0x00#8, 0x00#8, 0x01#8, 0x68#8, 0x08#8, 0x06#8, 0x00#8, 0x00#8, 0x00#8, 0xAC#8, 0x40#8, 0xBB#8, 0xB0#8],
      0xAC40BBB0#32) := by decide +kernel
theorem test_writeIhdr_order :
    faultRecord { headed (small 16 64 (cmd 0x31000000#32)) with strict := true } =
      some (0x0000030A#32, 0x31000000#32) := by decide
-- L1.8
theorem test_writeIdat :
    after (step (withSrc 16#32 0#32 (headed (small 16 64 (cmd 0x32000000#32)))))
      (fun t => ((outBytes t).drop 33, t.result)) =
    some ([0x00#8, 0x00#8, 0x00#8, 0x0B#8, 0x49#8, 0x44#8, 0x41#8, 0x54#8, 0x68#8, 0x81#8, 0x01#8, 0x00#8, 0x00#8] ++
      [0xFF#8, 0xFF#8, 0x00#8, 0x00#8, 0x00#8, 0x01#8, 0xC1#8, 0x25#8, 0x63#8, 0x95#8], 0xC1256395#32) := by
  decide +kernel
-- L2.7: DEFLATE_FAIL is reported though no frame could fit
theorem test_writeIdat_deflateFail :
    faultRecord (withSrc 0#32 1#32 (withIn [0x42#8] (headed (small 64 33 (cmd 0x32000000#32))))) =
      some (0x0000050A#32, 0x0000BEEF#32) := by decide +kernel
-- L1.5
theorem test_writeIend :
    after (step (headed (small 16 64 (cmd 0x33000000#32)))) (fun t => ((outBytes t).drop 33, t.result, t.outLen)) =
    some ([0x00#8, 0x00#8, 0x00#8, 0x00#8, 0x49#8, 0x45#8, 0x4E#8, 0x44#8, 0xAE#8, 0x42#8, 0x60#8, 0x82#8],
      0xAE426082#32, 45#32) := by decide +kernel
theorem test_writeIend_noSignature : faultRecord (small 64 256 (cmd 0x33000000#32)) =
    some (0x00000208#32, 0x33000000#32) := by decide
-- L2.7
theorem test_illegal : faultRecord (small 16 64 (cmd 0x06800000#32)) = some (0x00000108#32, 0x06800000#32) := by decide
-- L2.8: what is written where, and read where
theorem test_registers :
    [(0x08#32, 0x08#32), (0x28#32, 0x28#32), (0x38#32, 0x38#32), (0x34#32, 0x34#32), (0x1C#32, 0x1C#32),
      (0x3C#32, 0x3C#32), (0x20#32, 0x22#32), (0x04#32, 0x04#32), (0x0B#32, 0x08#32), (0x40#32, 0x40#32)].map
      (fun o => after (step (small 16 64 (.regWrite o.1 0xFFFFFFFF#32))) (fun t => regRead t o.2)) =
    [some 0x00000001#32, some 0x0000003F#32, some 0x000000FF#32, some 0xFFFFFFFF#32, some 0x00000001#32,
      some 0x00000000#32, some 0x504E4701#32, some 0x00000000#32, some 0x00000001#32, some 0x00000000#32] := by
  decide +kernel
-- L2.9
theorem test_reset : after (step { small 16 64 .reset with crcAcc := 0#32, fault := true, faultCode := .order })
    (fun t => (t.crcAcc, regRead t 0x04#32, regRead t 0x28#32)) = some (0xFFFFFFFF#32, 0#32, 0x00000026#32) := by decide
-- R64
theorem test_inWrite_above_capacity : after (step (small 16 64 (.inWrite 16#32 0xAA#8))) (·.inMem) = some [] := by decide
-- R235, R236
theorem test_reads : [HostOp.inRead 15#32, .inRead 16#32, .outRead 7#32].map
    (fun op => after (step (withIn (List.replicate 16 0xAA#8) (opened (small 16 64 op)))) (·.readLog)) =
    [some [.byte 0xAA#8], some [.byte 0x00#8], some [.byte 0x0A#8]] := by decide +kernel

/-- The memory returns to its empty form when the power-up value is written back. -/
theorem test_canonical_memory : Memory.write [0x07#8] (Memory.write [0x07#8] [] 0 0x55#8) 0 0x07#8 = [] := by decide

/-- From reset, with its own parameters, every placed command answers a next state. -/
theorem test_placed_commands_run :
    [0x01000000, 0x02000049, 0x03000000, 0x04000000, 0x05000000, 0x060000FF, 0x10000000, 0x110000FF,
      0x12000000, 0x13000000, 0x14000000, 0x20000000, 0x30000000, 0x31000000, 0x32000000, 0x33000000].map
      (fun w => after (step (State.reset.withFetchWord 32 w)) (·.opIndex)) = List.replicate 16 (some 1) := by decide

/-! ### Text (30_encoding.md R98, R99) -/

theorem test_text_command : assembleLine "CRC_BYTE 0x49".toList = some [.regWrite 0x00#32 0x02000049#32] := by
  decide +kernel
theorem test_text_register_by_name : assembleLine "WR SRC_LEN, 17  ; bytes".toList = some [.regWrite 0x14#32 17#32] := by
  decide +kernel
theorem test_text_inBytes : assembleLine "INBYTES 60, 57 0a".toList =
    some [.inWrite 60#32 0x57#8, .inWrite 61#32 0x0A#8] := by decide +kernel
theorem test_text_refuses_large_byte : assembleLine "CRC_BYTE 256".toList = none := by decide +kernel

/-! ### Witnesses: for each obligation, states and operands that meet its hypotheses -/

theorem witness_IllegalWordsFault :
    (∃ (s : State) (w : Word), writesCmd w s ∧ s.fault = false ∧ ∃ why, decode w = .illegal why) ∧
    (∃ (s : State) (w : Word), writesCmd w s ∧ s.fault = false ∧ decode w = .illegal .operandBits) :=
  ⟨⟨small 16 64 (cmd 0xFF000000#32), 0xFF000000#32, ⟨0x03#32, by decide, rfl⟩, rfl, .unassignedOp, by decide⟩,
    ⟨small 16 64 (cmd 0x02000100#32), 0x02000100#32, ⟨0x03#32, by decide, rfl⟩, rfl, by decide⟩⟩

theorem witness_StepRunsDecodedCommand :
    ∃ (s : State) (w : Word) (i : Instr), writesCmd w s ∧ s.fault = false ∧ decode w = .command i :=
  ⟨small 16 64 (cmd 0x020000FF#32), 0x020000FF#32, .crcByte 0xFF#8, ⟨0x03#32, by decide, rfl⟩, rfl, by decide⟩

theorem witness_PlacedWordRunsNext : ∃ (s : State) (w : Word) (i : Instr), s.fault = false ∧ decode w = .command i :=
  ⟨State.reset, 0x33000000#32, .writeIend, rfl, by decide⟩

theorem witness_EveryOperationCompletesInOrder : ∃ (s : State) (op : HostOp), s.program[s.opIndex]? = some op :=
  ⟨small 16 64 .reset, .reset, rfl⟩

theorem witness_ParametersNeverChange : ∃ s t : State, step s = .next t ∧ s.opIndex ≠ t.opIndex :=
  ⟨small 16 64 .reset, _, next_of_after State.reset (by decide), by decide⟩

theorem witness_ExhaustedListIdles : ∃ s : State, s.program[s.opIndex]? = none := ⟨State.reset, rfl⟩

theorem witness_ResetRestoresRegisters :
    ∃ s t : State, s.program[s.opIndex]? = some .reset ∧ step s = .next t ∧ s.fault = true ∧ t.fault = false :=
  ⟨{ small 16 64 .reset with fault := true, faultCode := .order }, _, rfl, rfl, rfl, rfl⟩

/-- A good state with a stream in OUT. -/
theorem good_opened (op : HostOp) : GoodState (opened (small 16 64 op)) where
  params := by show (params 16 64).wf; decide
  inWf := wf_nil _
  inBelow := below_nil _
  outWf := by show Memory.wf [] (opened (small 16 64 .reset)).outMem; decide
  outBelow := by show Memory.below 64 (opened (small 16 64 .reset)).outMem; decide
  sum1 := by show (1#16).toNat < 65521; decide
  sum2 := by show (0#16).toNat < 65521; decide
  outFits := by show (8#32).toNat ≤ 64; decide
  noStream := fun h => by cases h
  stream := fun _ => ⟨[], by show outBytes (opened (small 16 64 .reset)) = streamOf []; decide⟩
  noFault := fun _ => ⟨rfl, rfl⟩
  hasFault := fun h => by cases h
  index := Nat.zero_le _

theorem witness_StepKeepsInvariant : ∃ s t : State, GoodState s ∧ step s = .next t ∧ t.seq = .haveHeader :=
  ⟨opened (small 16 64 (cmd 0x31000000#32)), _, good_opened _, next_of_after State.reset (by decide +kernel),
    by decide +kernel⟩

theorem witness_FaultsArePrecise : ∃ s t : State, step s = .next t ∧ s.fault = false ∧ t.fault = true :=
  ⟨small 16 64 (cmd 0x33000000#32), _, next_of_after State.reset (by decide), rfl, by decide⟩

/-- A faulted machine. -/
def faulted (op : HostOp) : State :=
  { opened (small 16 64 op) with fault := true, faultCode := .srcRange, faultInfo := 0x05000000#32 }

theorem witness_FaultedBlockDiscardsCommands :
    (∃ (s : State) (w : Word), s.fault = true ∧ writesCmd w s) ∧
    (∃ (s : State) (o v m : Word), s.fault = true ∧ (o &&& 0x3C#32, m) ∈ writableBits ∧ o.toNat < 0x40 ∧
      s.program[s.opIndex]? = some (.regWrite o v)) ∧
    (∃ (s : State) (a : Word) (b : Byte), s.fault = true ∧ s.program[s.opIndex]? = some (.inWrite a b) ∧ a.toNat < s.par.inCap) ∧
    (∃ (s : State) (o : Word), s.fault = true ∧ s.program[s.opIndex]? = some (.regRead o)) ∧
    (∃ (s : State) (a : Word), s.fault = true ∧ s.program[s.opIndex]? = some (.inRead a) ∧ a.toNat < s.par.inCap) ∧
    (∃ (s : State) (a : Word), s.fault = true ∧ s.program[s.opIndex]? = some (.outRead a) ∧ a.toNat < s.outLen.toNat) :=
  ⟨⟨faulted (cmd 0x10000000#32), 0x10000000#32, rfl, ⟨0x03#32, by decide, rfl⟩⟩,
    ⟨faulted (.regWrite 0x3B#32 0x1FF#32), 0x3B#32, 0x1FF#32, 0xFF#32, rfl, by decide, by decide, rfl⟩,
    ⟨faulted (.inWrite 15#32 0xAA#8), 15#32, 0xAA#8, rfl, rfl, by decide⟩,
    ⟨faulted (.regRead 0x3F#32), 0x3F#32, rfl, rfl⟩,
    ⟨faulted (.inRead 15#32), 15#32, rfl, rfl, by decide⟩,
    ⟨faulted (.outRead 7#32), 7#32, rfl, rfl, by decide⟩⟩

theorem witness_FirstFaultIsKept :
    ∃ s t : State, s.fault = true ∧ s.program[s.opIndex]? ≠ some .reset ∧ step s = .next t :=
  ⟨faulted (cmd 0xFFFFFFFF#32), _, rfl, by decide, next_of_after State.reset (by decide)⟩

theorem witness_FaultInfoIsWordOrCompressorError :
    (∃ s t : State, step s = .next t ∧ s.fault = false ∧ t.fault = true ∧ t.faultCode ≠ .deflateFail) ∧
    (∃ s t : State, step s = .next t ∧ s.fault = false ∧ t.fault = true ∧ t.faultCode = .deflateFail) :=
  ⟨⟨small 16 64 (cmd 0xFFFFFFFF#32), _, next_of_after State.reset (by decide), rfl, by decide, by decide⟩,
    ⟨withSrc 0#32 1#32 (withIn [0x42#8] (headed (small 64 33 (cmd 0x32000000#32)))), _,
      next_of_after State.reset (by decide +kernel), rfl, by decide +kernel, by decide +kernel⟩⟩

theorem witness_CommandsRaiseOnlyTheirFaults :
    (∃ (i : Instr) (s t : State), s.fault = false ∧ exec i s = .next t ∧ t.fault = true) ∧
    (∃ (i : Instr) (s t : State), s.fault = false ∧ isStreamCommand i = false ∧ s.srcAddr.toNat + s.srcLen.toNat ≤ s.par.inCap ∧
      exec i s = .next t) :=
  ⟨⟨.crcBlock, withSrc 16#32 1#32 (small 16 64 .reset), _, rfl, next_of_after State.reset (by decide), by decide⟩,
    ⟨.crcBlock, withSrc 16#32 0#32 (small 16 64 .reset), _, rfl, rfl, by decide, next_of_after State.reset (by decide)⟩⟩

/-- IN_CAP 4 and the bytes IHDR in IN. -/
def tagIn : State := withIn [0x49#8, 0x48#8, 0x44#8, 0x52#8] (small 4 64 .reset)

/-- The clauses of the range check for a command without and with an admission. -/
theorem witness_BlockRangeCheck :
    (∃ s : State, s.par.inCap < s.srcAddr.toNat + s.srcLen.toNat ∧ s.srcLen = 0#32) ∧
    (∃ s : State, s.srcAddr.toNat + s.srcLen.toNat = s.par.inCap ∧ s.fault = false ∧ s.faultCode = .none ∧
      s.srcLen = 0#32) ∧
    (∃ s : State, s.srcAddr.toNat + s.srcLen.toNat = s.par.inCap + 1 ∧ s.srcAddr.toNat < s.par.inCap ∧
      s.seq ≠ .start ∧ (s.strict = true → s.seq = .haveHeader ∨ s.seq = .haveData)) :=
  ⟨⟨withSrc 5#32 0#32 tagIn, by decide⟩, ⟨withSrc 4#32 0#32 tagIn, by decide⟩,
    ⟨withSrc 3#32 2#32 { headed tagIn with strict := true }, by decide⟩⟩

/-- The hypotheses of the clauses about a command's words: a word with the OP, legal and illegal. -/
theorem witness_command_words :
    (∃ w : Word, w.toNat / 16777216 = 0x33 ∧ w.toNat % 16777216 = 0) ∧
    (∃ w : Word, w.toNat / 16777216 = 0x33 ∧ w.toNat % 16777216 ≠ 0) ∧
    (∃ w : Word, w.toNat / 16777216 = 0x11 ∧ w.toNat / 256 % 65536 = 0) ∧
    (∃ w : Word, w.toNat / 16777216 = 0x11 ∧ w.toNat / 256 % 65536 ≠ 0) :=
  ⟨⟨0x33000000#32, by decide⟩, ⟨0x33000001#32, by decide⟩, ⟨0x110000FF#32, by decide⟩, ⟨0x11000100#32, by decide⟩⟩

/-- The hypotheses of the four statements about a block command: in range up to the last byte of IN, and out of range by
one. -/
theorem witness_block_statements :
    (∃ (s : State) (d : List Byte), d.length = s.srcLen.toNat ∧
      (∀ i (h : i < d.length), d[i] = inByte s (s.srcAddr.toNat + i)) ∧
      s.srcAddr.toNat + s.srcLen.toNat ≤ s.par.inCap) ∧
    (∃ (s : State) (d : List Byte), d.length = s.srcLen.toNat ∧
      (∀ i (h : i < d.length), d[i] = inByte s (s.srcAddr.toNat + i)) ∧
      s.par.inCap < s.srcAddr.toNat + s.srcLen.toNat) :=
  ⟨⟨withSrc 1#32 3#32 tagIn, [0x48#8, 0x44#8, 0x52#8], by decide⟩,
    ⟨withSrc 2#32 3#32 tagIn, [0x44#8, 0x52#8, 0x00#8], by decide⟩⟩

theorem witness_CrcBlockRunsOverInput : after (exec .crcBlock (withSrc 0#32 4#32 tagIn)) (·.crcAcc) =
    some 0x575E51F5#32 := by decide +kernel

theorem witness_streaming_statements :
    ∃ (s : State) (fs : List Feed), (∀ f ∈ fs, f.inRange s) ∧ feedBytes s fs = [0x49#8, 0x48#8, 0x44#8, 0x52#8] :=
  ⟨tagIn, [.byte 0x49#8, .block 1#32 3#32, .block 4#32 0#32],
    by simp only [List.forall_mem_cons, Feed.inRange]; exact ⟨trivial, by decide, by decide, by simp⟩, by decide⟩

theorem witness_AdlerAgreesWithUnreducedSums :
    ∃ p : BitVec 16 × BitVec 16, p.1.toNat < 65521 ∧ p.2.toNat < 65521 ∧ p.1.toNat + 1 = 65521 :=
  ⟨(65520#16, 65520#16), by decide⟩

theorem witness_FrameRoundTrip : ∃ tg payload : List Byte, tg.length = 4 ∧ payload.length < 4294967296 ∧
    frame tg payload = [0x00#8, 0x00#8, 0x00#8, 0x01#8, 0x61#8, 0x62#8, 0x63#8, 0x64#8, 0x01#8, 0xCF#8, 0x58#8, 0x7D#8,
      0x24#8] :=
  ⟨[0x61#8, 0x62#8, 0x63#8, 0x64#8], [0x01#8], by decide, by decide, by decide +kernel⟩

/-- The clauses of WRITE_IHDR: no signature; out of order; one byte too few; just enough. -/
theorem witness_WriteIhdrAppendsHeader :
    (∃ s : State, s.par.wf ∧ s.seq = .start) ∧
    (∃ s : State, s.par.wf ∧ s.seq ≠ .start ∧ s.strict = true ∧ s.seq ≠ .haveSignature) ∧
    (∃ s : State, s.par.wf ∧ s.seq ≠ .start ∧ (s.strict = true → s.seq = .haveSignature) ∧
      s.outLen.toNat + 25 = s.par.outCap + 1) ∧
    (∃ s : State, s.par.wf ∧ s.seq ≠ .start ∧ (s.strict = true → s.seq = .haveSignature) ∧
      s.outLen.toNat + 25 = s.par.outCap) :=
  ⟨⟨small 16 33 .reset, by decide⟩, ⟨{ headed (small 16 64 .reset) with strict := true }, by decide⟩,
    ⟨{ opened (small 16 32 .reset) with strict := true }, by decide⟩, ⟨opened (small 16 33 .reset), by decide⟩⟩

/-- The clauses of WRITE_IDAT, in their order. -/
theorem witness_WriteIdatAppendsEnvelope :
    (∃ (s : State) (raw : List Byte), s.par.wf ∧ raw.length = s.srcLen.toNat ∧
      (∀ i (h : i < raw.length), raw[i] = inByte s (s.srcAddr.toNat + i)) ∧ s.seq = .start) ∧
    (∃ (s : State) (raw : List Byte), s.par.wf ∧ raw.length = s.srcLen.toNat ∧
      (∀ i (h : i < raw.length), raw[i] = inByte s (s.srcAddr.toNat + i)) ∧
      s.seq ≠ .start ∧ s.strict = true ∧ s.seq ≠ .haveHeader ∧ s.seq ≠ .haveData) ∧
    (∃ (s : State) (raw : List Byte), s.par.wf ∧ raw.length = s.srcLen.toNat ∧
      (∀ i (h : i < raw.length), raw[i] = inByte s (s.srcAddr.toNat + i)) ∧
      s.seq ≠ .start ∧ (s.strict = true → s.seq = .haveHeader ∨ s.seq = .haveData) ∧
      s.srcAddr.toNat + s.srcLen.toNat = s.par.inCap + 1) ∧
    (∃ (s : State) (raw : List Byte), s.par.wf ∧ raw.length = s.srcLen.toNat ∧
      (∀ i (h : i < raw.length), raw[i] = inByte s (s.srcAddr.toNat + i)) ∧
      s.seq ≠ .start ∧ (s.strict = true → s.seq = .haveHeader ∨ s.seq = .haveData) ∧
      s.srcAddr.toNat + s.srcLen.toNat ≤ s.par.inCap ∧ deflate s.par s.level raw = .err 0x0000BEEF#32) ∧
    (∃ (s : State) (raw c : List Byte), s.par.wf ∧ raw.length = s.srcLen.toNat ∧
      (∀ i (h : i < raw.length), raw[i] = inByte s (s.srcAddr.toNat + i)) ∧
      s.seq ≠ .start ∧ (s.strict = true → s.seq = .haveHeader ∨ s.seq = .haveData) ∧
      s.srcAddr.toNat + s.srcLen.toNat ≤ s.par.inCap ∧ deflate s.par s.level raw = .ok c ∧
      s.outLen.toNat + (18 + c.length) = s.par.outCap + 1) ∧
    (∃ (s : State) (raw c : List Byte), s.par.wf ∧ raw.length = s.srcLen.toNat ∧
      (∀ i (h : i < raw.length), raw[i] = inByte s (s.srcAddr.toNat + i)) ∧
      s.seq ≠ .start ∧ (s.strict = true → s.seq = .haveHeader ∨ s.seq = .haveData) ∧
      s.srcAddr.toNat + s.srcLen.toNat ≤ s.par.inCap ∧ deflate s.par s.level raw = .ok c ∧
      s.outLen.toNat + (18 + c.length) = s.par.outCap) :=
  ⟨⟨small 16 64 .reset, [], by decide⟩,
    ⟨{ opened (small 16 64 .reset) with strict := true }, [], by decide⟩,
    ⟨withSrc 17#32 0#32 (headed (small 16 64 .reset)), [], by decide⟩,
    ⟨withSrc 0#32 1#32 (withIn [0x42#8] (headed (small 16 64 .reset))), [0x42#8], by decide⟩,
    ⟨withSrc 14#32 2#32 (headed (small 16 57 .reset)), [0x00#8, 0x00#8],
      [0x01#8, 0x02#8, 0x00#8, 0xFD#8, 0xFF#8, 0x00#8, 0x00#8], by decide⟩,
    ⟨withSrc 16#32 0#32 (headed (small 16 56 .reset)), [], [0x01#8, 0x00#8, 0x00#8, 0xFF#8, 0xFF#8], by decide⟩⟩

/-- The clauses of WRITE_IEND, in their order. -/
theorem witness_WriteIendAppendsTrailer :
    (∃ s : State, s.par.wf ∧ s.seq = .start) ∧
    (∃ s : State, s.par.wf ∧ s.seq ≠ .start ∧ s.strict = true ∧ s.seq ≠ .haveHeader ∧ s.seq ≠ .haveData) ∧
    (∃ s : State, s.par.wf ∧ s.seq ≠ .start ∧ (s.strict = true → s.seq = .haveHeader ∨ s.seq = .haveData) ∧
      s.outLen.toNat + 12 = s.par.outCap + 1) ∧
    (∃ s : State, s.par.wf ∧ s.seq ≠ .start ∧ (s.strict = true → s.seq = .haveHeader ∨ s.seq = .haveData) ∧
      s.outLen.toNat + 12 = s.par.outCap) :=
  ⟨⟨small 16 33 .reset, by decide⟩, ⟨{ opened (small 16 64 .reset) with strict := true }, by decide⟩,
    ⟨{ headed (small 16 44 .reset) with strict := true }, by decide⟩, ⟨opened (small 16 20 .reset), by decide⟩⟩

/-- A command of each kind that completes, and one that faults. -/
theorem witness_SequencerNextState :
    (∃ (i : Instr) (s t : State), s.fault = false ∧ exec i s = .next t ∧ t.fault = true) ∧
    (∀ i ∈ [Instr.streamNew, .writeIhdr, .writeIdat, .writeIend, .zlibHdr],
      ∃ s t : State, s.fault = false ∧ exec i s = .next t ∧ t.fault = false) := by
  refine ⟨⟨.writeIend, small 16 64 .reset, _, rfl, next_of_after State.reset (by decide), by decide⟩, ?_⟩
  intro i hi
  refine ⟨headed (small 16 64 .reset), nextOf (exec i (headed (small 16 64 .reset))) State.reset, rfl,
    next_of_after State.reset ?_, ?_⟩ <;> revert i <;> decide +kernel

theorem witness_OtherOperationsKeepStream :
    ∃ (s t : State) (op : HostOp), s.program[s.opIndex]? = some op ∧ op ≠ .reset ∧
      (∀ i, commandOf op = some i → isStreamCommand i = false) ∧ step s = .next t :=
  ⟨opened (small 16 64 (cmd 0x10000000#32)), _, cmd 0x10000000#32, rfl, by decide,
    fun i h => by rw [show commandOf (cmd 0x10000000#32) = some .adlerInit by decide] at h; cases h; rfl,
    next_of_after State.reset (by decide)⟩

theorem sameStream_refl (s : State) : SameStream s s := ⟨rfl, rfl, rfl, rfl⟩

/-- 95_test_vectors.md P2 without the host's writes: an empty IDAT, 8 + 25 + 23 + 12 bytes. -/
theorem witness_CompleteStream :
    ∃ s a a' b b' c c' d : State, s.par.wf ∧ exec .streamNew s = .next a ∧ SameStream a a' ∧
      exec .writeIhdr a' = .next b ∧ b.fault = false ∧ SameStream b b' ∧
      exec .writeIdat b' = .next c ∧ c.fault = false ∧ SameStream c c' ∧
      exec .writeIend c' = .next d ∧ d.fault = false := by
  let s := small 16 68 .reset
  let a := nextOf (exec .streamNew s) s
  let b := nextOf (exec .writeIhdr a) s
  let c := nextOf (exec .writeIdat b) s
  exact ⟨s, a, a, b, b, c, c, nextOf (exec .writeIend c) s, by decide,
    next_of_after s (by decide +kernel), sameStream_refl a, next_of_after s (by decide +kernel), by decide +kernel,
    sameStream_refl b, next_of_after s (by decide +kernel), by decide +kernel, sameStream_refl c,
    next_of_after s (by decide +kernel), by decide +kernel⟩

theorem witness_OutIsAppendOnly : ∃ (i : Instr) (s t : State), s.par.wf ∧ exec i s = .next t ∧ i ≠ .streamNew ∧ t.outLen = 45#32 :=
  ⟨.writeIend, headed (small 16 64 .reset), _, by decide, next_of_after State.reset (by decide +kernel), by decide,
    by decide +kernel⟩

theorem witness_CommandsLeaveInputAndConfiguration : ∃ (i : Instr) (s t : State), exec i s = .next t :=
  ⟨.writeIend, headed (small 16 64 .reset), _, next_of_after State.reset (by decide +kernel)⟩

/-- A command outside each list of writers. -/
theorem witness_ChecksumRegistersHaveTheirWriters :
    ∃ (i : Instr) (s t : State), exec i s = .next t ∧
      i ≠ .crcInit ∧ (∀ b, i ≠ .crcByte b) ∧ i ≠ .crcBlock ∧ i ≠ .adlerInit ∧ (∀ b, i ≠ .adlerByte b) ∧ i ≠ .adlerBlock ∧
      i ≠ .crcFinal ∧ i ≠ .crcOneshot ∧ (∀ b, i ≠ .crcTblRead b) ∧ i ≠ .adlerFinal ∧ i ≠ .adlerOneshot ∧
      i ≠ .zlibHdr ∧ i ≠ .writeIhdr ∧ i ≠ .writeIdat ∧ i ≠ .writeIend :=
  ⟨.streamNew, small 16 64 .reset, _, next_of_after State.reset (by decide +kernel), by simp⟩

theorem witness_ChecksumCommandsLeaveStream : ∃ (i : Instr) (s t : State), isStreamCommand i = false ∧ exec i s = .next t ∧ s.seq = .complete :=
  ⟨.crcOneshot, { opened (small 16 64 .reset) with seq := .complete }, _, rfl, next_of_after State.reset (by decide), rfl⟩

/-- CMD; an offset above the map; a read-only register by an alias; a read-write register by an alias. -/
theorem witness_RegisterWrite :
    (∃ (s : State) (o v : Word), s.program[s.opIndex]? = some (.regWrite o v) ∧ o.toNat < 4) ∧
    (∃ (s : State) (o v : Word), s.program[s.opIndex]? = some (.regWrite o v) ∧ 0x40 ≤ o.toNat) ∧
    (∃ (s : State) (o v : Word), s.program[s.opIndex]? = some (.regWrite o v) ∧ o.toNat < 0x40 ∧
      o &&& 0x3C#32 ∈ readOnlyOffsets) ∧
    (∃ (s : State) (o v m : Word), s.program[s.opIndex]? = some (.regWrite o v) ∧ o.toNat < 0x40 ∧
      (o &&& 0x3C#32, m) ∈ writableBits) :=
  ⟨⟨small 16 64 (.regWrite 3#32 0#32), 3#32, 0#32, rfl, by decide⟩,
    ⟨small 16 64 (.regWrite 0x40#32 0#32), 0x40#32, 0#32, rfl, by decide⟩,
    ⟨small 16 64 (.regWrite 0x3F#32 9#32), 0x3F#32, 9#32, rfl, by decide, by decide⟩,
    ⟨small 16 64 (.regWrite 0x0B#32 9#32), 0x0B#32, 9#32, 1#32, rfl, by decide, by decide⟩⟩

theorem witness_RegisterRead :
    (∃ (s : State) (o : Word), s.program[s.opIndex]? = some (.regRead o)) ∧
    (∃ o : Word, o.toNat = 0x40) ∧ (∃ o : Word, o.toNat = 0x3F) :=
  ⟨⟨small 16 64 (.regRead 0x3F#32), 0x3F#32, rfl⟩, ⟨0x40#32, rfl⟩, ⟨0x3F#32, rfl⟩⟩

theorem witness_StatusChangesByCommandOrReset :
    ∃ s t : State, step s = .next t ∧ regRead t 0x04#32 ≠ regRead s 0x04#32 :=
  ⟨small 16 64 (cmd 0x30000000#32), _, next_of_after State.reset (by decide +kernel), by decide +kernel⟩

/-- The last byte of IN, and the first address past it. -/
theorem witness_HostAccessToInput :
    (∃ (s : State) (a : Word) (b : Byte), s.program[s.opIndex]? = some (.inWrite a b) ∧ a.toNat + 1 = s.par.inCap) ∧
    (∃ (s : State) (a : Word) (b : Byte), s.program[s.opIndex]? = some (.inWrite a b) ∧ a.toNat = s.par.inCap) ∧
    (∃ (s : State) (a : Word), s.program[s.opIndex]? = some (.inRead a) ∧ a.toNat = s.par.inCap) :=
  ⟨⟨small 16 64 (.inWrite 15#32 1#8), 15#32, 1#8, rfl, rfl⟩, ⟨small 16 64 (.inWrite 16#32 1#8), 16#32, 1#8, rfl, rfl⟩,
    ⟨small 16 64 (.inRead 16#32), 16#32, rfl, rfl⟩⟩

/-- The last byte of the stream, and the first address past it. -/
theorem witness_HostReadOfOutput :
    (∃ (s : State) (a : Word), s.program[s.opIndex]? = some (.outRead a) ∧ a.toNat + 1 = s.outLen.toNat) ∧
    (∃ (s : State) (a : Word), s.program[s.opIndex]? = some (.outRead a) ∧ a.toNat = s.outLen.toNat) :=
  ⟨⟨opened (small 16 64 (.outRead 7#32)), 7#32, rfl, rfl⟩, ⟨opened (small 16 64 (.outRead 8#32)), 8#32, rfl, rfl⟩⟩

/-- The last address of IN's address space, and the first INBYTES address past it. -/
theorem witness_PseudoInstructionExpansions :
    ∃ (a : Word) (bs : List Byte) (k : Nat), k < bs.length ∧ a.toNat + k = 4294967295 :=
  ⟨0xFFFFFFFE#32, [0x57#8, 0x69#8], 1, by decide⟩

theorem witness_InBytesAddressesWrap :
    ∃ (a : Word) (bs : List Byte) (k : Nat), k < bs.length ∧ a.toNat + k = 4294967296 :=
  ⟨0xFFFFFFFF#32, [0x57#8, 0x69#8], 1, by decide⟩

/-- Two states that differ at OUT[8] only, the first byte past the stream. -/
theorem witness_StaleOutputReachesNothing :
    ∃ s t s' : State, s.par.wf ∧ SameButStale s t ∧ step s = .next s' ∧ outByte s 8 ≠ outByte t 8 :=
  ⟨opened (small 16 64 (.outRead 8#32)),
    { opened (small 16 64 (.outRead 8#32)) with
      outMem := Memory.write [] (opened (small 16 64 .reset)).outMem 8 0xAA#8 }, _,
    by decide, ⟨rfl, by decide⟩, next_of_after State.reset (by decide), by decide⟩

end Sys2Proof.Tests
end

namespace Sys2Proof.Machine

/-! The parameters along a run (00_scope.md R5; log 1): no command, no host operation and no step changes them. -/

@[simp] theorem inWrite_par (a : Word) (b : Byte) (s : State) : (inWrite a b s).par = s.par := by
  rw [inWrite_rest]

@[simp] theorem performOutRead_par (a : Word) (s : State) : (performOutRead a s).par = s.par := by
  rw [performOutRead_rest]

@[simp] theorem checksumState_par (acc : Word) (p : BitVec 16 × BitVec 16) (res : Word) (s : State) :
    (checksumState acc p res s).par = s.par := rfl

theorem CommandEffect.par_eq {i : Instr} {s t : State} (h : CommandEffect i s t) : t.par = s.par := by
  cases h with
  | faulted c w => exact recordFault_par c w s
  | checksum acc p res => exact checksumState_par acc p res s
  | newStream => simp
  | chunk k p => exact chunkWritten_par k p s

theorem issueCommand_par {w : Word} {s t : State} (h : issueCommand w s = .next t) : t.par = s.par := by
  rcases issueCommand_cases h with ⟨-, rfl⟩ | ⟨-, -, rfl⟩ | ⟨-, i, -, hexec⟩
  · rfl
  · exact recordFault_par _ w s
  · exact (exec_cases hexec).par_eq

theorem regWrite_par {o v : Word} {s t : State} (h : regWrite o v s = .next t) : t.par = s.par := by
  rcases regWrite_cases h with ⟨-, hissue⟩ | ⟨-, rfl⟩ | ⟨r, -, -, rfl⟩
  · exact issueCommand_par hissue
  · rfl
  · exact storeReg_par v s r

theorem perform_par {op : HostOp} {s t : State} (h : perform op s = .next t) : t.par = s.par := by
  cases op with
  | reset => cases h; exact resetBlock_par s
  | regWrite o v => exact regWrite_par h
  | regRead o => cases h; exact State.pushRead_par _ s
  | inWrite a b => cases h; exact inWrite_par a b s
  | inRead a => cases h; exact State.pushRead_par _ s
  | outRead a => cases h; exact performOutRead_par a s

theorem step_par {s t : State} (h : step s = .next t) : t.par = s.par := by
  rcases step_cases h with ⟨-, rfl⟩ | ⟨op, u, -, hperform, rfl⟩
  · rfl
  · exact (State.advance_par u).trans (perform_par hperform)

/-- Settles O7: every operation keeps the parameters, a command by the four effects it can have. -/
theorem parametersNeverChange : Obligations.ParametersNeverChange :=
  fun _ _ => step_par

end Sys2Proof.Machine

namespace Sys2Proof.Machine

/-! What a command can write (10_state.md R29 to R41): never IN, the configuration registers or the host's side. -/

/-- The fields that no command writes stay, whichever of the four effects it has. -/
theorem CommandEffect.rest {i : Instr} {s t : State} (h : CommandEffect i s t) :
    t = { s with
      crcAcc := t.crcAcc, s1 := t.s1, s2 := t.s2, result := t.result, seq := t.seq, fault := t.fault,
      faultCode := t.faultCode, faultInfo := t.faultInfo, outLen := t.outLen, outMem := t.outMem } := by
  cases h with
  | faulted c w => rfl
  | checksum acc p res => rfl
  | newStream => rfl
  | chunk k p => rw [chunkWritten_eq]

/-- Settles O45: every effect a command can have leaves IN and the configuration registers out. -/
theorem commandsLeaveInputAndConfiguration : Obligations.CommandsLeaveInputAndConfiguration := by
  intro i s t hexec
  rw [(exec_cases hexec).rest]
  exact ⟨fun _ => rfl, by simp⟩

/-! The host's list and index along an operation (10_state.md R21). -/

theorem issueCommand_host {w : Word} {s t : State} (h : issueCommand w s = .next t) :
    t.program = s.program ∧ t.opIndex = s.opIndex := by
  rcases issueCommand_cases h with ⟨-, rfl⟩ | ⟨-, -, rfl⟩ | ⟨-, i, -, hexec⟩
  · exact ⟨rfl, rfl⟩
  · exact ⟨rfl, rfl⟩
  · rw [(exec_cases hexec).rest]; exact ⟨rfl, rfl⟩

theorem regWrite_host {o v : Word} {s t : State} (h : regWrite o v s = .next t) :
    t.program = s.program ∧ t.opIndex = s.opIndex := by
  rcases regWrite_cases h with ⟨-, hissue⟩ | ⟨-, rfl⟩ | ⟨r, -, -, rfl⟩
  · exact issueCommand_host hissue
  · exact ⟨rfl, rfl⟩
  · simp

/-- An operation moves neither the host's list nor its index; only the step around it advances. -/
theorem perform_host {op : HostOp} {s t : State} (h : perform op s = .next t) :
    t.program = s.program ∧ t.opIndex = s.opIndex := by
  cases op with
  | reset => cases h; simp
  | regWrite o v => exact regWrite_host h
  | regRead o => cases h; simp
  | inWrite a b => cases h; rw [inWrite_rest]; simp
  | inRead a => cases h; simp
  | outRead a => cases h; rw [performOutRead_rest]; simp

/-- Settles O6: every operation answers a next state with the host's side as before, and the step then advances. -/
theorem everyOperationCompletesInOrder : Obligations.EveryOperationCompletesInOrder := by
  intro s op hop
  obtain ⟨u, hu⟩ := perform_next op s
  obtain ⟨hprogram, hindex⟩ := perform_host hu
  exact ⟨u.advance, by rw [step_of_op hop, hu, onNext_next], by simp [hindex], by simp [hprogram]⟩

/-! The invariant (10_state.md R41, R43; 43_framer_stream.md R190, R197 to R200). -/

/-- The drawn capacities are admissible whatever the draws are (00_scope.md R5). -/
theorem config_params_wf : Config.params.wf := by
  have hin := Config.inCapDraw.isLt
  have hout := Config.outCapDraw.isLt
  simp only [Params.wf, Config.params]
  omega

/-- Settles O11: the memories list nothing, no stream is begun and no fault is recorded. -/
theorem powerUpMeetsInvariant : Obligations.PowerUpMeetsInvariant where
  params := config_params_wf
  inWf := wf_nil _
  inBelow := below_nil _
  outWf := wf_nil _
  outBelow := below_nil _
  sum1 := by decide
  sum2 := by decide
  outFits := Nat.zero_le _
  noStream _ := rfl
  stream h := absurd rfl h
  noFault _ := ⟨rfl, rfl⟩
  hasFault h := nomatch h
  index := Nat.zero_le _

theorem streamOf_nil : streamOf [] = signature := by simp [streamOf]

theorem streamOf_concat (cs : Chunks) (k : Chunk) (p : List Byte) :
    streamOf (cs ++ [(k, p)]) = streamOf cs ++ frame (tag k) p := by
  simp [streamOf]

section
variable {s : State} (h : GoodState s)
include h

theorem goodState_recordFault {c : FaultCode} (hc : c ≠ .none) (w : Word) : GoodState (recordFault c w s) :=
  { h with noFault := fun hf => by simp at hf, hasFault := fun _ => hc }

theorem goodState_checksumState (acc : Word) {p : BitVec 16 × BitVec 16}
    (hp : p.1.toNat < 65521 ∧ p.2.toNat < 65521) (res : Word) : GoodState (checksumState acc p res s) :=
  { h with sum1 := hp.1, sum2 := hp.2 }

/-- Bytes written from n up keep the invariant when they fit and make what then stands below OUT_LEN a stream: n is 0 for
STREAM_NEW and OUT_LEN for a chunk write. -/
theorem goodState_append {n : Word} {bs : List Byte} {q : Seq} (hq : q ≠ .start)
    (hfits : n.toNat + bs.length ≤ s.par.outCap)
    (hstream : ∃ cs, outBytes (s.setOut s.outMem n) ++ bs = streamOf cs) :
    GoodState ((outAppend bs (s.setOut s.outMem n)).setSeq q) := by
  obtain ⟨-, -, -, hcap⟩ := h.params
  have hlt : (s.setOut s.outMem n).outLen.toNat + bs.length < 4294967296 := by
    rw [State.setOut_outLen]; omega
  exact { h with
    outWf := wf_writeBytes h.outWf _ _
    outBelow := below_writeBytes h.outBelow _ _ hfits
    outFits := (outAppend_outLen hlt).trans_le hfits
    noStream := fun hstart => absurd hstart hq
    stream := fun _ => hstream.imp fun _ hcs => (outBytes_outAppend hlt).trans hcs }

theorem goodState_setResult (v : Word) : GoodState (s.setResult v) := { h with }

/-- STREAM_NEW: the signature fits in every admissible OUT_CAP, and is the stream with no frame yet. -/
theorem goodState_newStream :
    GoodState ((outAppend signature (s.setOut s.outMem 0#32)).setSeq .haveSignature) := by
  obtain ⟨-, -, hcap, -⟩ := h.params
  exact goodState_append h (by simp) (by simpa using hcap) ⟨[], by rw [streamOf_nil]; rfl⟩

/-- A WRITE_* command that completes: its frame fits, and is one whole frame more. -/
theorem goodState_chunkWritten {k : Chunk} {p : List Byte} (hs : s.seq ≠ .start)
    (hfits : s.outLen.toNat + (12 + p.length) ≤ s.par.outCap) : GoodState (chunkWritten k p s) := by
  obtain ⟨cs, hcs⟩ := h.stream hs
  have hstream : outBytes s ++ frame (tag k) p = streamOf (cs ++ [(k, p)]) := by rw [hcs, streamOf_concat]
  exact goodState_setResult (goodState_append h (n := s.outLen) (by cases k <;> simp [seqAfter])
    (by simpa using hfits) ⟨_, hstream⟩) _

theorem goodState_exec {i : Instr} {t : State} (hexec : exec i s = .next t) : GoodState t := by
  cases exec_cases hexec with
  | faulted c w hc => exact goodState_recordFault h hc w
  | checksum acc p res _ hp => exact goodState_checksumState h acc (hp ⟨h.sum1, h.sum2⟩) res
  | newStream => exact goodState_newStream h
  | chunk k p _ hs hfits => exact goodState_chunkWritten h hs hfits

theorem goodState_issueCommand {w : Word} {t : State} (hissue : issueCommand w s = .next t) : GoodState t := by
  rcases issueCommand_cases hissue with ⟨-, rfl⟩ | ⟨-, -, rfl⟩ | ⟨-, i, -, hexec⟩
  · exact h
  · exact goodState_recordFault h (by simp) w
  · exact goodState_exec h hexec

/-- No register that the host can store to is in the invariant. -/
theorem goodState_storeReg (v : Word) (r : Reg) : GoodState (storeReg v s r) := by
  cases r <;> exact { h with }

theorem goodState_regWrite {o v : Word} {t : State} (hwrite : regWrite o v s = .next t) : GoodState t := by
  rcases regWrite_cases hwrite with ⟨-, hissue⟩ | ⟨-, rfl⟩ | ⟨r, -, -, rfl⟩
  · exact goodState_issueCommand h hissue
  · exact h
  · exact goodState_storeReg h v r

/-- RESET keeps the memories, and what it clears is as at power-up. -/
theorem goodState_resetBlock : GoodState (resetBlock s) :=
  { powerUpMeetsInvariant with
    params := h.params, inWf := h.inWf, inBelow := h.inBelow, outWf := h.outWf, outBelow := h.outBelow,
    outFits := Nat.zero_le _, index := h.index }

theorem goodState_pushRead (v : ReadValue) : GoodState (s.pushRead v) := { h with }

theorem goodState_inWrite (a : Word) (b : Byte) : GoodState (inWrite a b s) := by
  unfold inWrite
  split
  next ha => exact { h with inWf := wf_write h.inWf _ _, inBelow := below_write h.inBelow ha _ _ }
  next => exact h

theorem goodState_performOutRead (a : Word) : GoodState (performOutRead a s) := by
  rw [performOutRead_rest]; exact { h with }

theorem goodState_perform {op : HostOp} {t : State} (hperform : perform op s = .next t) : GoodState t := by
  cases op with
  | reset => cases hperform; exact goodState_resetBlock h
  | regWrite o v => exact goodState_regWrite h hperform
  | regRead o => cases hperform; exact goodState_pushRead h _
  | inWrite a b => cases hperform; exact goodState_inWrite h a b
  | inRead a => cases hperform; exact goodState_pushRead h _
  | outRead a => cases hperform; exact goodState_performOutRead h a

theorem goodState_advance (hindex : s.opIndex < s.program.length) : GoodState s.advance :=
  { h with index := hindex }

end

/-- Settles O12: the operation at the index keeps the invariant, and there was one, so the index may advance. -/
theorem stepKeepsInvariant : Obligations.StepKeepsInvariant := by
  intro s t h hstep
  rcases step_cases hstep with ⟨-, rfl⟩ | ⟨op, u, hop, hperform, rfl⟩
  · exact h
  · obtain ⟨hprogram, hindex⟩ := perform_host hperform
    obtain ⟨hlt, -⟩ := List.getElem?_eq_some_iff.1 hop
    exact goodState_advance (goodState_perform h hperform) (by rwa [hprogram, hindex])

/-! STATUS (10_state.md R26). -/

theorem regRead_status (s : State) : regRead s 0x04#32 = statusWord s := rfl

/-- Settles O50: an operation that is neither RESET nor a CMD write keeps SEQ, FAULT and FAULT_CODE. -/
theorem statusChangesByCommandOrReset : Obligations.StatusChangesByCommandOrReset := by
  intro s t hstep hchanged
  rcases step_cases hstep with ⟨-, rfl⟩ | ⟨op, u, hop, hperform, rfl⟩
  · exact absurd rfl hchanged
  by_contra hneither
  obtain ⟨hreset, hcmd⟩ := not_or.1 hneither
  have hnotReset : op ≠ .reset := by rintro rfl; exact hreset hop
  have hnotCmd : ∀ o w, op = .regWrite o w → regAt o ≠ some .cmd := by
    rintro o w rfl hcmdReg
    exact hcmd ⟨w, o, regAt_eq_cmd.1 hcmdReg, hop⟩
  obtain ⟨hseq, hfault, hcode, -⟩ := perform_other hperform hnotReset hnotCmd
  exact hchanged (by simp [regRead_status, statusWord, hseq, hfault, hcode])

/-- Settles O10: the reset column of the register map, offset by offset. -/
theorem powerUpRegisterValues : Obligations.PowerUpRegisterValues := by
  constructor <;> decide

/-! CRC_ACC, the sums and RESULT (10_state.md R31, R32, R34). -/

/-- The three register groups that checksum commands write. -/
inductive ChecksumTarget where
  | crcAcc
  | sums
  | result

/-- The group that a command writes when it completes, as its "State written" line says. -/
def checksumTarget : Instr → Option ChecksumTarget
  | .crcInit => some .crcAcc
  | .crcByte _ => some .crcAcc
  | .crcBlock => some .crcAcc
  | .crcFinal => some .result
  | .crcOneshot => some .result
  | .crcTblRead _ => some .result
  | .adlerInit => some .sums
  | .adlerByte _ => some .sums
  | .adlerBlock => some .sums
  | .adlerFinal => some .result
  | .adlerOneshot => some .result
  | .zlibHdr => some .result
  | .streamNew => none
  | .writeIhdr => some .result
  | .writeIdat => some .result
  | .writeIend => some .result

/-- From s to t only the given group of checksum registers may have changed. -/
structure OnlyTarget (g : Option ChecksumTarget) (s t : State) : Prop where
  crcAcc : g ≠ some .crcAcc → t.crcAcc = s.crcAcc
  sums   : g ≠ some .sums → t.s1 = s.s1 ∧ t.s2 = s.s2
  result : g ≠ some .result → t.result = s.result

section
variable (s : State)

theorem onlyTarget_setCrcAcc (v : Word) : OnlyTarget (some .crcAcc) s (s.setCrcAcc v) := by constructor <;> simp

theorem onlyTarget_setSums (p : BitVec 16 × BitVec 16) : OnlyTarget (some .sums) s (s.setSums p) := by
  constructor <;> simp

theorem onlyTarget_setResult (v : Word) : OnlyTarget (some .result) s (s.setResult v) := by constructor <;> simp

theorem onlyTarget_recordFault (g : Option ChecksumTarget) (c : FaultCode) (w : Word) :
    OnlyTarget g s (recordFault c w s) := by
  constructor <;> simp

theorem onlyTarget_chunkWritten (k : Chunk) (p : List Byte) : OnlyTarget (some .result) s (chunkWritten k p s) := by
  rw [chunkWritten_eq]; constructor <;> simp

end

/-- A block command whose body completes writes the body's group, or records SRC_RANGE. -/
theorem onlyTarget_withBlock {g : Option ChecksumTarget} {cmd : Word} {s t : State} {f : List Byte → State}
    (h : withBlock cmd s (fun d => .next (f d)) = .next t) (hf : ∀ d, OnlyTarget g s (f d)) : OnlyTarget g s t := by
  rcases withBlock_cases h with ⟨-, ht⟩ | ⟨-, ht⟩ <;> cases ht
  · exact hf _
  · exact onlyTarget_recordFault s g _ _

theorem chunkCommand_target (k : Chunk) : checksumTarget (chunkCommand k) = some .result := by cases k <;> rfl

theorem onlyTarget_streamCommand {i : Instr} {s t : State} (h : exec i s = .next t) (hi : isStreamCommand i = true) :
    OnlyTarget (checksumTarget i) s t := by
  cases exec_cases h with
  | faulted c w => exact onlyTarget_recordFault s _ c w
  | checksum acc p res hno => simp [hi] at hno
  | newStream => constructor <;> simp
  | chunk k p hk => rw [hk, chunkCommand_target]; exact onlyTarget_chunkWritten s k p

/-- A command writes its own group of checksum registers and no other. -/
theorem exec_onlyTarget {i : Instr} {s t : State} (h : exec i s = .next t) : OnlyTarget (checksumTarget i) s t := by
  cases i with
  | crcInit => cases h; exact onlyTarget_setCrcAcc s _
  | crcByte b => cases h; exact onlyTarget_setCrcAcc s _
  | crcBlock => rw [exec_crcBlock] at h; exact onlyTarget_withBlock h fun _ => onlyTarget_setCrcAcc s _
  | crcFinal => cases h; exact onlyTarget_setResult s _
  | crcOneshot => rw [exec_crcOneshot] at h; exact onlyTarget_withBlock h fun _ => onlyTarget_setResult s _
  | crcTblRead b => cases h; exact onlyTarget_setResult s _
  | adlerInit => cases h; exact onlyTarget_setSums s _
  | adlerByte b => cases h; exact onlyTarget_setSums s _
  | adlerBlock => rw [exec_adlerBlock] at h; exact onlyTarget_withBlock h fun _ => onlyTarget_setSums s _
  | adlerFinal => cases h; exact onlyTarget_setResult s _
  | adlerOneshot => rw [exec_adlerOneshot] at h; exact onlyTarget_withBlock h fun _ => onlyTarget_setResult s _
  | zlibHdr => cases h; exact onlyTarget_setResult s _
  | streamNew => exact onlyTarget_streamCommand h rfl
  | writeIhdr => exact onlyTarget_streamCommand h rfl
  | writeIdat => exact onlyTarget_streamCommand h rfl
  | writeIend => exact onlyTarget_streamCommand h rfl

theorem checksumTarget_eq_crcAcc {i : Instr} :
    checksumTarget i = some .crcAcc ↔ i = .crcInit ∨ (∃ b, i = .crcByte b) ∨ i = .crcBlock := by
  cases i <;> simp [checksumTarget]

theorem checksumTarget_eq_sums {i : Instr} :
    checksumTarget i = some .sums ↔ i = .adlerInit ∨ (∃ b, i = .adlerByte b) ∨ i = .adlerBlock := by
  cases i <;> simp [checksumTarget]

theorem checksumTarget_eq_result {i : Instr} :
    checksumTarget i = some .result ↔ i = .crcFinal ∨ i = .crcOneshot ∨ (∃ b, i = .crcTblRead b) ∨ i = .adlerFinal ∨
      i = .adlerOneshot ∨ i = .zlibHdr ∨ i = .writeIhdr ∨ i = .writeIdat ∨ i = .writeIend := by
  cases i <;> simp [checksumTarget]

/-- Settles O46: the writers the statement lists are the commands with the register's group as their target. -/
theorem checksumRegistersHaveTheirWriters : Obligations.ChecksumRegistersHaveTheirWriters := by
  intro i s t hexec
  obtain ⟨hcrc, hsums, hresult⟩ := exec_onlyTarget hexec
  refine ⟨fun hinit hbyte hblock => hcrc ?_, fun hinit hbyte hblock => hsums ?_,
    fun hfinal hone htbl hafinal haone hhdr hihdr hidat hiend => hresult ?_⟩
  · simp [checksumTarget_eq_crcAcc, hinit, hbyte, hblock]
  · simp [checksumTarget_eq_sums, hinit, hbyte, hblock]
  · simp [checksumTarget_eq_result, hfinal, hone, htbl, hafinal, haone, hhdr, hihdr, hidat, hiend]

/-! What OUT holds at and above OUT_LEN (10_state.md R45). Everything but OUT is the same in the two states, so each
operation takes the same branch in both, and an append writes the same bytes at the same place. -/

/-- Two states that differ only in OUT bytes past the stream are one state with two contents of OUT. -/
theorem SameButStale.exists_setOut {s t : State} (h : SameButStale s t) :
    ∃ m, t = s.setOut m s.outLen ∧ outBytes (s.setOut m s.outLen) = outBytes s := by
  have hrest : t = s.setOut t.outMem s.outLen := h.rest
  exact ⟨t.outMem, hrest, hrest ▸ h.bytes⟩

/-- Both answers are next states, and these differ at most in OUT bytes past the stream. -/
def StaleAgree (r r' : Result) : Prop := ∃ s t, r = .next s ∧ r' = .next t ∧ SameButStale s t

theorem StaleAgree.next {s t : State} (h : SameButStale s t) : StaleAgree (.next s) (.next t) := ⟨s, t, rfl, rfl, h⟩

theorem staleAgree_onNext_advance {r r' : Result} (h : StaleAgree r r') :
    StaleAgree (onNext State.advance r) (onNext State.advance r') := by
  obtain ⟨s, t, rfl, rfl, hst⟩ := h
  obtain ⟨m, rfl, hb⟩ := hst.exists_setOut
  exact .next ⟨rfl, hb⟩

/-- Two answers that branch on the same condition agree when both branches do. -/
theorem staleAgree_ite {c c' : Prop} [Decidable c] [Decidable c'] {r₁ r₁' r₂ r₂' : Result} (hc : c' ↔ c)
    (h₁ : StaleAgree r₁ r₁') (h₂ : StaleAgree r₂ r₂') :
    StaleAgree (if c then r₁ else r₂) (if c' then r₁' else r₂') := by
  by_cases h : c
  · rwa [if_pos h, if_pos (hc.2 h)]
  · rwa [if_neg h, if_neg (mt hc.1 h)]

section
variable {s t : State} (h : SameButStale s t)
include h

theorem staleAgree_raiseFault (c : FaultCode) (w : Word) : StaleAgree (raiseFault c w s) (raiseFault c w t) := by
  obtain ⟨m, rfl, hb⟩ := h.exists_setOut
  exact .next ⟨rfl, hb⟩

theorem staleAgree_withBlock (cmd : Word) {body body' : List Byte → Result}
    (hbody : ∀ d, StaleAgree (body d) (body' d)) : StaleAgree (withBlock cmd s body) (withBlock cmd t body') := by
  obtain ⟨m, rfl, -⟩ := h.exists_setOut
  exact staleAgree_ite Iff.rfl (staleAgree_raiseFault h .srcRange cmd) (hbody (blockBytes s))

theorem staleAgree_admitChunk (k : Chunk) (cmd : Word) {body body' : Result} (hbody : StaleAgree body body') :
    StaleAgree (admitChunk k cmd s body) (admitChunk k cmd t body') := by
  obtain ⟨m, rfl, -⟩ := h.exists_setOut
  exact staleAgree_ite Iff.rfl (staleAgree_raiseFault h .noSignature cmd)
    (staleAgree_ite Iff.rfl (staleAgree_raiseFault h .order cmd) hbody)

/-- A chunk that fits extends both streams by the same frame. -/
theorem sameButStale_chunkWritten {k : Chunk} {p : List Byte}
    (hlt : s.outLen.toNat + (12 + p.length) < 4294967296) :
    SameButStale (chunkWritten k p s) (chunkWritten k p t) := by
  obtain ⟨m, rfl, hb⟩ := h.exists_setOut
  refine ⟨by rw [chunkWritten_eq, chunkWritten_eq]; rfl, ?_⟩
  rw [chunkWritten_outBytes hlt, chunkWritten_outBytes (s := s.setOut m s.outLen) hlt, hb]

theorem staleAgree_appendChunk (hwf : s.par.wf) (k : Chunk) (p : List Byte) (cmd : Word) :
    StaleAgree (appendChunk k p cmd s) (appendChunk k p cmd t) := by
  obtain ⟨-, -, -, hcap⟩ := hwf
  have hpar : t.par = s.par := by rw [h.rest]
  have hlen : t.outLen = s.outLen := by rw [h.rest]
  rcases Nat.lt_or_ge s.par.outCap (s.outLen.toNat + (12 + p.length)) with hover | hfits
  · rw [appendChunk_overflow hover, appendChunk_overflow (by rwa [hpar, hlen])]
    exact staleAgree_raiseFault h .outOverflow cmd
  · rw [appendChunk_fits hfits, appendChunk_fits (by rwa [hpar, hlen])]
    exact .next (sameButStale_chunkWritten h (by omega))

/-- Bytes written from 0 up are all that stands below the new OUT_LEN. -/
theorem sameButStale_restart {bs : List Byte} (hlt : bs.length < 4294967296) (q : Seq) :
    SameButStale ((outAppend bs (s.setOut s.outMem 0#32)).setSeq q)
      ((outAppend bs (t.setOut t.outMem 0#32)).setSeq q) := by
  have hbytes : ∀ u : State, outBytes (outAppend bs (u.setOut u.outMem 0#32)) = bs := fun u =>
    outBytes_outAppend (s := u.setOut u.outMem 0#32) (by simpa using hlt)
  obtain ⟨m, rfl, -⟩ := h.exists_setOut
  exact ⟨rfl, (hbytes _).trans (hbytes s).symm⟩

theorem staleAgree_writeIdat (hwf : s.par.wf) : StaleAgree (execWriteIdat s) (execWriteIdat t) := by
  refine staleAgree_admitChunk h .idat _ (staleAgree_withBlock h _ fun raw => ?_)
  have henvelope : zlibEnvelope t.par t.cinfo t.level raw = zlibEnvelope s.par s.cinfo s.level raw := by
    rw [h.rest]
  rw [henvelope]
  cases zlibEnvelope s.par s.cinfo s.level raw with
  | err e => exact staleAgree_raiseFault h .deflateFail e
  | ok p => exact staleAgree_appendChunk h hwf .idat p _

theorem staleAgree_writeIhdr (hwf : s.par.wf) : StaleAgree (execWriteIhdr s) (execWriteIhdr t) := by
  have hpayload : ihdrPayload t = ihdrPayload s := by rw [h.rest]; rfl
  unfold execWriteIhdr
  rw [hpayload]
  exact staleAgree_admitChunk h .ihdr _ (staleAgree_appendChunk h hwf .ihdr _ _)

theorem sameButStale_setCrcAcc (v : Word) : SameButStale (s.setCrcAcc v) (t.setCrcAcc v) := by
  obtain ⟨m, rfl, hb⟩ := h.exists_setOut
  exact ⟨rfl, hb⟩

theorem sameButStale_setSums (p : BitVec 16 × BitVec 16) : SameButStale (s.setSums p) (t.setSums p) := by
  obtain ⟨m, rfl, hb⟩ := h.exists_setOut
  exact ⟨rfl, hb⟩

theorem sameButStale_setResult (v : Word) : SameButStale (s.setResult v) (t.setResult v) := by
  obtain ⟨m, rfl, hb⟩ := h.exists_setOut
  exact ⟨rfl, hb⟩

/-- What a command reports does not look at OUT, and what it appends stands below the new OUT_LEN. -/
theorem staleAgree_exec (hwf : s.par.wf) (i : Instr) : StaleAgree (exec i s) (exec i t) := by
  obtain ⟨m, rfl, -⟩ := h.exists_setOut
  cases i with
  | crcInit => exact .next (sameButStale_setCrcAcc h _)
  | crcByte b => exact .next (sameButStale_setCrcAcc h _)
  | crcBlock => exact staleAgree_withBlock h _ fun _ => .next (sameButStale_setCrcAcc h _)
  | crcFinal => exact .next (sameButStale_setResult h _)
  | crcOneshot => exact staleAgree_withBlock h _ fun _ => .next (sameButStale_setResult h _)
  | crcTblRead b => exact .next (sameButStale_setResult h _)
  | adlerInit => exact .next (sameButStale_setSums h _)
  | adlerByte b => exact .next (sameButStale_setSums h _)
  | adlerBlock => exact staleAgree_withBlock h _ fun _ => .next (sameButStale_setSums h _)
  | adlerFinal => exact .next (sameButStale_setResult h _)
  | adlerOneshot => exact staleAgree_withBlock h _ fun _ => .next (sameButStale_setResult h _)
  | zlibHdr => exact .next (sameButStale_setResult h _)
  | streamNew => exact .next (sameButStale_restart h (by simp) .haveSignature)
  | writeIhdr => exact staleAgree_writeIhdr h hwf
  | writeIdat => exact staleAgree_writeIdat h hwf
  | writeIend => exact staleAgree_admitChunk h .iend _ (staleAgree_appendChunk h hwf .iend [] _)

theorem staleAgree_issueCommand (hwf : s.par.wf) (w : Word) :
    StaleAgree (issueCommand w s) (issueCommand w t) := by
  have hfault : t.fault = true ↔ s.fault = true := by rw [h.rest]
  refine staleAgree_ite hfault (.next h) ?_
  cases decode w with
  | command i => exact staleAgree_exec h hwf i
  | illegal why => exact staleAgree_raiseFault h .illegalCmd w

theorem sameButStale_storeReg (v : Word) (r : Reg) : SameButStale (storeReg v s r) (storeReg v t r) := by
  obtain ⟨m, rfl, hb⟩ := h.exists_setOut
  cases r <;> exact ⟨rfl, hb⟩

theorem staleAgree_regWrite (hwf : s.par.wf) (o v : Word) : StaleAgree (regWrite o v s) (regWrite o v t) := by
  unfold regWrite
  cases regAt o with
  | none => exact .next h
  | some r => exact staleAgree_ite Iff.rfl (staleAgree_issueCommand h hwf v) (.next (sameButStale_storeReg h v r))

/-- Both hosts receive the same value. -/
theorem sameButStale_pushRead (v : ReadValue) : SameButStale (s.pushRead v) (t.pushRead v) := by
  obtain ⟨m, rfl, hb⟩ := h.exists_setOut
  exact ⟨rfl, hb⟩

/-- No register shows a byte of OUT. -/
theorem regRead_eq_of_sameButStale (o : Word) : regRead t o = regRead s o := by
  obtain ⟨m, rfl, -⟩ := h.exists_setOut
  unfold regRead
  cases regAt o with
  | none => rfl
  | some r => cases r <;> rfl

theorem outRead_eq_of_sameButStale (a : Word) : outRead t a = outRead s a := by
  have hlen : t.outLen = s.outLen := by rw [h.rest]
  have hdraws : t.outDraws = s.outDraws := by rw [h.rest]
  unfold outRead
  rw [hlen, hdraws]
  split
  next ha => exact outBytes_agree h.bytes ha
  next => rfl

theorem sameButStale_inWrite (a : Word) (b : Byte) : SameButStale (inWrite a b s) (inWrite a b t) := by
  have hpar : t.par = s.par := by rw [h.rest]
  unfold inWrite
  rw [hpar]
  split
  · obtain ⟨m, rfl, hb⟩ := h.exists_setOut
    exact ⟨rfl, hb⟩
  · exact h

theorem sameButStale_performOutRead (a : Word) : SameButStale (performOutRead a s) (performOutRead a t) := by
  have hread := outRead_eq_of_sameButStale h a
  obtain ⟨m, rfl, hb⟩ := h.exists_setOut
  unfold performOutRead
  simp only [hread, State.setOut_outLen]
  split <;> exact ⟨rfl, hb⟩

theorem staleAgree_perform (hwf : s.par.wf) (op : HostOp) : StaleAgree (perform op s) (perform op t) := by
  cases op with
  | reset =>
    obtain ⟨m, rfl, -⟩ := h.exists_setOut
    exact .next ⟨rfl, rfl⟩
  | regWrite o v => exact staleAgree_regWrite h hwf o v
  | regRead o =>
    simp only [perform, regRead_eq_of_sameButStale h]
    exact .next (sameButStale_pushRead h _)
  | inWrite a b => exact .next (sameButStale_inWrite h a b)
  | inRead a =>
    have hread : inRead t a = inRead s a := by rw [h.rest]; rfl
    simp only [perform, hread]
    exact .next (sameButStale_pushRead h _)
  | outRead a => exact .next (sameButStale_performOutRead h a)

theorem staleAgree_step (hwf : s.par.wf) : StaleAgree (step s) (step t) := by
  have hnext : t.program[t.opIndex]? = s.program[s.opIndex]? := by rw [h.rest]
  cases hop : s.program[s.opIndex]? with
  | none =>
    rw [step_idle hop, step_idle (hnext.trans hop)]
    exact .next h
  | some op =>
    rw [step_of_op hop, step_of_op (hnext.trans hop)]
    exact staleAgree_onNext_advance (staleAgree_perform h hwf op)

end

/-- Settles O53: both steps answer next states that agree, and s' is the one of them. -/
theorem staleOutputReachesNothing : Obligations.StaleOutputReachesNothing := by
  intro s t s' hwf h hstep
  obtain ⟨u, t', hu, ht', hagree⟩ := staleAgree_step h hwf
  cases hstep.symm.trans hu
  exact ⟨t', ht', hagree⟩

end Sys2Proof.Machine

namespace Sys2Proof.Machine

/-! The input range check (20_memory.md R62, R63). -/

@[simp] theorem chunkWritten_faultCode (k : Chunk) (p : List Byte) (s : State) :
    (chunkWritten k p s).faultCode = s.faultCode := by
  rw [chunkWritten_eq]

theorem outOfOrder_idat_eq_false {q : Seq} : outOfOrder .idat q = false ↔ q = .haveHeader ∨ q = .haveData := by
  cases q <;> simp [outOfOrder]

/-- What WRITE_IDAT makes of its raw bytes, once it is admitted and they lie in IN (43_framer_stream.md R199). -/
def idatAnswer (s : State) (raw : List Byte) : Result :=
  match zlibEnvelope s.par s.cinfo s.level raw with
  | .err e => raiseFault .deflateFail e s
  | .ok p => appendChunk .idat p 0x32000000#32 s

/-- Once WRITE_IDAT is admitted it is a block command like the other four. -/
theorem exec_writeIdat_admitted {s : State} (hseq : s.seq ≠ .start)
    (horder : s.strict = true → s.seq = .haveHeader ∨ s.seq = .haveData) :
    exec .writeIdat s = withBlock 0x32000000#32 s (idatAnswer s) :=
  (exec_writeIdat s).trans (admitChunk_admitted hseq (fun hs => outOfOrder_idat_eq_false.2 (horder hs)) _ _)

/-- Everything an admitted WRITE_IDAT can do in range: the compressor's error, a frame that does not fit, a chunk. -/
theorem idatAnswer_cases (s : State) (raw : List Byte) :
    (∃ e, idatAnswer s raw = .next (recordFault .deflateFail e s)) ∨
    idatAnswer s raw = .next (recordFault .outOverflow 0x32000000#32 s) ∨
    (∃ p, idatAnswer s raw = .next (chunkWritten .idat p s)) := by
  unfold idatAnswer
  cases zlibEnvelope s.par s.cinfo s.level raw with
  | err e => exact .inl ⟨e, rfl⟩
  | ok p =>
    rcases appendChunk_cases (k := .idat) (p := p) (cmd := 0x32000000#32) (s := s) rfl with ⟨-, h⟩ | ⟨-, h⟩
    · exact .inr (.inr ⟨p, h⟩)
    · exact .inr (.inl h)

/-- The command is the range check with the word w and then a body on the block's bytes; from a clean fault record the
body records no SRC_RANGE, and no fault at all unless the command is WRITE_IDAT. -/
def ChecksRange (i : Instr) (w : Word) (s : State) : Prop :=
  ∃ body, exec i s = withBlock w s body ∧ (s.fault = false → s.faultCode = .none →
    ∀ d, ∃ t, body d = .next t ∧ t.faultCode ≠ .srcRange ∧ (i ≠ .writeIdat → t.fault = false))

section
variable {i : Instr} {w : Word} {s : State}

theorem ChecksRange.exec_outOfRange (h : ChecksRange i w s) (hout : s.par.inCap < s.srcAddr.toNat + s.srcLen.toNat) :
    exec i s = .next (recordFault .srcRange w s) := by
  obtain ⟨body, hexec, -⟩ := h
  exact hexec.trans (withBlock_outOfRange hout w body)

theorem ChecksRange.exec_inRange (h : ChecksRange i w s) (hin : s.srcAddr.toNat + s.srcLen.toNat ≤ s.par.inCap)
    (hfault : s.fault = false) (hcode : s.faultCode = .none) :
    ∃ t, exec i s = .next t ∧ t.faultCode ≠ .srcRange ∧ (i ≠ .writeIdat → t.fault = false) := by
  obtain ⟨body, hexec, hbody⟩ := h
  rw [hexec, withBlock_inRange hin]
  exact hbody hfault hcode (blockBytes s)

/-- A body that only computes leaves the fault record as it was. -/
theorem checksRange_of_keepsFault {f : List Byte → State} (hexec : exec i s = withBlock w s fun d => .next (f d))
    (hf : ∀ d, (f d).fault = s.fault) (hc : ∀ d, (f d).faultCode = s.faultCode) : ChecksRange i w s :=
  ⟨_, hexec, fun hfault hcode d => ⟨f d, rfl, by simp [hc, hcode], fun _ => (hf d).trans hfault⟩⟩

theorem checksRange_writeIdat (hseq : s.seq ≠ .start)
    (horder : s.strict = true → s.seq = .haveHeader ∨ s.seq = .haveData) :
    ChecksRange .writeIdat 0x32000000#32 s := by
  refine ⟨idatAnswer s, exec_writeIdat_admitted hseq horder, fun _ hcode raw => ?_⟩
  rcases idatAnswer_cases s raw with ⟨e, h⟩ | h | ⟨p, h⟩
  · exact ⟨_, h, by simp, absurd rfl⟩
  · exact ⟨_, h, by simp, absurd rfl⟩
  · exact ⟨_, h, by simp [hcode], absurd rfl⟩

theorem blockBytes_of_srcLen_zero (h : s.srcLen = 0#32) : blockBytes s = [] :=
  blockBytes_eq (by simp [h]) (by simp)

end

/-- Settles O18: each of the five commands is the range check and then a body that records no SRC_RANGE. -/
theorem blockRangeCheck : Obligations.BlockRangeCheck := by
  intro s i w hmem hadmit
  have hcheck : ChecksRange i w s := by
    simp only [List.mem_cons, Prod.mk.injEq, List.not_mem_nil, or_false] at hmem
    rcases hmem with ⟨rfl, rfl⟩ | ⟨rfl, rfl⟩ | ⟨rfl, rfl⟩ | ⟨rfl, rfl⟩ | ⟨rfl, rfl⟩
    · exact checksRange_of_keepsFault (exec_crcBlock s) (fun _ => rfl) (fun _ => rfl)
    · exact checksRange_of_keepsFault (exec_crcOneshot s) (fun _ => rfl) (fun _ => rfl)
    · exact checksRange_of_keepsFault (exec_adlerBlock s) (fun _ => rfl) (fun _ => rfl)
    · exact checksRange_of_keepsFault (exec_adlerOneshot s) (fun _ => rfl) (fun _ => rfl)
    · obtain ⟨hseq, horder⟩ := hadmit rfl
      exact checksRange_writeIdat hseq horder
  exact ⟨hcheck.exec_outOfRange, hcheck.exec_inRange, fun hlen => ⟨blockBytes_of_srcLen_zero hlen, by simp [hlen]⟩⟩

/-! OUT between two STREAM_NEW (20_memory.md R65). -/

/-- OUT_LEN has not gone down, and the bytes below the old one are as they were. -/
def OutExtends (s t : State) : Prop :=
  s.outLen.toNat ≤ t.outLen.toNat ∧ ∀ a < s.outLen.toNat, outByte t a = outByte s a

theorem outExtends_of_sameOut {s t : State} (hlen : t.outLen = s.outLen) (hmem : t.outMem = s.outMem)
    (hpar : t.par = s.par) : OutExtends s t :=
  ⟨by rw [hlen], fun a _ => outByte_of_outMem hmem hpar a⟩

/-- An append writes at and above the old OUT_LEN only. -/
theorem Appended.outExtends {f : List Byte} {s t : State} (h : Appended f s t) : OutExtends s t := by
  refine ⟨by rw [h.outLen]; omega, fun a ha => ?_⟩
  rw [h.bytes, if_neg (by omega)]

/-- Settles O44: a command but STREAM_NEW leaves OUT alone or appends a frame, and OUT_CAP keeps OUT_LEN from wrapping. -/
theorem outIsAppendOnly : Obligations.OutIsAppendOnly := by
  intro i s t hwf hexec hnotNew
  obtain ⟨-, -, -, hcap⟩ := hwf
  cases exec_cases hexec with
  | faulted c w => exact outExtends_of_sameOut rfl rfl rfl
  | checksum acc p res => exact outExtends_of_sameOut rfl rfl rfl
  | newStream hnew => exact absurd hnew hnotNew
  | chunk k p hk hs hfits => exact (appended_chunkWritten (by omega)).outExtends

/-! Host accesses to IN (20_memory.md R64; 45_host_ops.md R234, R235). -/

theorem step_inWrite {s : State} {a : Word} {b : Byte} (h : s.program[s.opIndex]? = some (.inWrite a b)) :
    step s = .next (inWrite a b s).advance := step_of_op h

theorem step_inRead {s : State} {a : Word} (h : s.program[s.opIndex]? = some (.inRead a)) :
    step s = .next (s.pushRead (.byte (inRead s a))).advance := step_of_op h

/-- A host write of IN and its step change IN and the index and nothing else. -/
theorem advance_inWrite_rest (a : Word) (b : Byte) (s : State) :
    (inWrite a b s).advance = { s with inMem := (inWrite a b s).inMem, opIndex := s.opIndex + 1 } := by
  rw [inWrite_rest]; rfl

/-- Settles O51: the step of a host access is the access, which looks at no fault, and then the index. -/
theorem hostAccessToInput : Obligations.HostAccessToInput :=
  ⟨fun s a b hop => ⟨(inWrite a b s).advance, step_inWrite hop, advance_inWrite_rest a b s, inByte_inWrite a b s⟩,
    fun _ _ hop => step_inRead hop⟩

end Sys2Proof.Machine

namespace Sys2Proof

/-! Decode and encode (30_encoding.md R91 to R94). -/

/-- Every command's word matches the row that builds the command. -/
theorem encodingStatement : ∀ i : Instr, Laws.Encoding.Statement i
  | .crcInit => Laws.Encoding.crcInit
  | .crcByte b => Laws.Encoding.crcByte b
  | .crcBlock => Laws.Encoding.crcBlock
  | .crcFinal => Laws.Encoding.crcFinal
  | .crcOneshot => Laws.Encoding.crcOneshot
  | .crcTblRead b => Laws.Encoding.crcTblRead b
  | .adlerInit => Laws.Encoding.adlerInit
  | .adlerByte b => Laws.Encoding.adlerByte b
  | .adlerBlock => Laws.Encoding.adlerBlock
  | .adlerFinal => Laws.Encoding.adlerFinal
  | .adlerOneshot => Laws.Encoding.adlerOneshot
  | .zlibHdr => Laws.Encoding.zlibHdr
  | .streamNew => Laws.Encoding.streamNew
  | .writeIhdr => Laws.Encoding.writeIhdr
  | .writeIdat => Laws.Encoding.writeIdat
  | .writeIend => Laws.Encoding.writeIend

@[simp] theorem decode_encode (i : Instr) : decode (encode i) = .command i := by
  obtain ⟨-, r, hr, hfit, -, hbuild⟩ := encodingStatement i
  rw [decode_of_fits hr hfit, hbuild]

/-- The word of a row for a given IMM8, which format N has no place for (30_encoding.md R91, R92). -/
def OpcodeRow.word (r : OpcodeRow) (imm8 : Byte) : Word :=
  match r.format with
  | .n => wordN r.op
  | .b => wordB r.op imm8

theorem encode_build {r : OpcodeRow} (hr : r ∈ opcodeTable) (b : Byte) : encode (r.build b) = r.word b := by
  simp only [opcodeTable, List.mem_cons, List.not_mem_nil, or_false] at hr
  rcases hr with rfl | rfl | rfl | rfl | rfl | rfl | rfl | rfl | rfl | rfl | rfl | rfl | rfl | rfl | rfl | rfl <;> rfl

/-- No bit of a matching word is lost: the row's OP and the word's own IMM8 give the word back. -/
theorem word_of_fits {r : OpcodeRow} {w : Word} (h : r.fits w) : r.word (imm8Field w) = w := by
  apply BitVec.eq_of_toNat_eq
  unfold OpcodeRow.fits at h
  unfold OpcodeRow.word
  cases hf : r.format with
  | n => rw [hf] at h; exact (wordN_toNat r.op).trans h.symm
  | b =>
    rw [hf] at h
    have hw : w.toNat / 256 = r.op.toNat * 65536 := h
    simp only [wordB_toNat, imm8Field_toNat]
    omega

theorem encode_of_decode {w : Word} {i : Instr} (h : decode w = .command i) : encode i = w := by
  obtain ⟨r, hr, hfit, rfl⟩ := decode_command h
  rw [encode_build hr, word_of_fits hfit]

/-- Settles O1: a command's word matches the row that builds it, and a row's match loses no bit of the word. -/
theorem decodeInvertsEncode : Obligations.DecodeInvertsEncode :=
  fun _ i => ⟨fun h => (encode_of_decode h).symm, fun h => h ▸ decode_encode i⟩

/-- Settles O2: the six legal words are the encodings of their commands. -/
theorem knownWordsDecode : Obligations.KnownWordsDecode :=
  ⟨decode_encode (.crcByte 0x49#8), decode_encode (.crcTblRead 0xFF#8), decode_encode (.adlerByte 0xFF#8),
    decode_encode .adlerOneshot, decode_encode .zlibHdr, decode_encode .writeIdat, by decide, by decide⟩

/-! The illegal words (30_encoding.md R95). -/

/-- The OP values of the rows of a format. -/
def opsOfFormat (f : Format) : List Nat := (opcodeTable.filter (·.format = f)).map (·.op.toNat)

theorem mem_opsOfFormat {f : Format} {n : Nat} :
    n ∈ opsOfFormat f ↔ ∃ r ∈ opcodeTable, r.format = f ∧ r.op.toNat = n := by
  simp [opsOfFormat, and_assoc]

/-- The OP values of the two formats do not overlap: a row whose OP is one of a format's has that format. -/
theorem format_eq_of_op_mem {r : OpcodeRow} {f : Format} (hr : r ∈ opcodeTable)
    (h : r.op.toNat ∈ opsOfFormat f) : r.format = f := by
  obtain ⟨q, hq, hqf, hop⟩ := mem_opsOfFormat.1 h
  rwa [← List.inj_on_of_nodup_map opcodes_differ hq hr (BitVec.eq_of_toNat_eq hop)]

theorem fits_formatN {r : OpcodeRow} {w : Word} (hf : r.format = .n) (hop : r.op.toNat = w.toNat / 16777216) :
    r.fits w ↔ w.toNat % 16777216 = 0 := by
  unfold OpcodeRow.fits; rw [hf]; simp only; omega

theorem fits_formatB {r : OpcodeRow} {w : Word} (hf : r.format = .b) (hop : r.op.toNat = w.toNat / 16777216) :
    r.fits w ↔ w.toNat % 16777216 / 256 = 0 := by
  unfold OpcodeRow.fits; rw [hf]; simp only; omega

/-- R95 in terms of the map: the OP is no row's, or the OPERAND is not what the format of the OP's row allows. -/
theorem decode_illegal_iff_fields (w : Word) :
    (∃ why, decode w = .illegal why) ↔
      w.toNat / 16777216 ∉ opcodeTable.map (·.op.toNat) ∨
      (w.toNat / 16777216 ∈ opsOfFormat .b ∧ w.toNat % 16777216 / 256 ≠ 0) ∨
      (w.toNat / 16777216 ∈ opsOfFormat .n ∧ w.toNat % 16777216 ≠ 0) := by
  rw [decode_illegal_iff]
  constructor
  · intro hnone
    by_cases hassigned : w.toNat / 16777216 ∈ opcodeTable.map (·.op.toNat)
    · obtain ⟨r, hr, hop⟩ := List.mem_map.1 hassigned
      have hunfit := hnone r hr
      cases hf : r.format with
      | n => exact .inr (.inr ⟨mem_opsOfFormat.2 ⟨r, hr, hf, hop⟩, mt (fits_formatN hf hop).2 hunfit⟩)
      | b => exact .inr (.inl ⟨mem_opsOfFormat.2 ⟨r, hr, hf, hop⟩, mt (fits_formatB hf hop).2 hunfit⟩)
    · exact .inl hassigned
  · intro hbad r hr hfit
    have hop := op_of_fits hfit
    rcases hbad with hunassigned | ⟨hb, hoperand⟩ | ⟨hn, hoperand⟩
    · exact hunassigned (List.mem_map.2 ⟨r, hr, hop⟩)
    · exact hoperand ((fits_formatB (format_eq_of_op_mem hr (hop ▸ hb)) hop).1 hfit)
    · exact hoperand ((fits_formatN (format_eq_of_op_mem hr (hop ▸ hn)) hop).1 hfit)

end Sys2Proof

namespace Sys2Proof.Machine

/-! The step of a CMD write (10_state.md R21; 45_host_ops.md R232). -/

/-- Settles O3: the map's OP values by format are the lists of R95, and an illegal word's issue records it. -/
theorem illegalWordsFault : Obligations.IllegalWordsFault := by
  refine ⟨fun w => decode_illegal_iff_fields w, fun w s hcmd hfault ⟨why, hillegal⟩ => ?_⟩
  rw [step_of_writesCmd hcmd, issueCommand_illegal hfault hillegal]
  rfl

/-- Settles O4: the step of a CMD write is the issue of its word, which runs the decoded command. -/
theorem stepRunsDecodedCommand : Obligations.StepRunsDecodedCommand := by
  intro s w i hcmd hfault hdecode
  rw [step_of_writesCmd hcmd, issueCommand_legal hfault hdecode]
  rfl

/-- A stored operation is the one at the index, also where the index lies past the end of the list (log 4). -/
theorem storeOp_at_opIndex (op : HostOp) (s : State) : (storeOp op s).program[(storeOp op s).opIndex]? = some op := by
  have hlength : (s.program.take s.opIndex ++ List.replicate (s.opIndex - s.program.length) op).length = s.opIndex := by
    rw [List.length_append, List.length_take, List.length_replicate]; omega
  show (_ ++ op :: _)[s.opIndex]? = some op
  rw [List.getElem?_append_right hlength.le, hlength, Nat.sub_self]
  rfl

theorem writesCmd_withFetchWord (w : Word) (s : State) : writesCmd w (s.withFetchWord 32 w.toNat) := by
  have hword : BitVec.ofNat 32 (w.toNat % 2 ^ 32) = w := by
    rw [Nat.mod_eq_of_lt w.isLt, BitVec.ofNat_toNat, BitVec.setWidth_eq]
  refine ⟨0x00000000#32, by decide, ?_⟩
  unfold State.withFetchWord
  rw [hword]
  exact storeOp_at_opIndex (commandOp w) s

/-- Settles O5: the placed word stands at the index as a CMD write, and placing it records no fault. -/
theorem placedWordRunsNext : Obligations.PlacedWordRunsNext :=
  fun s w i hfault => stepRunsDecodedCommand (s.withFetchWord 32 w.toNat) w i (writesCmd_withFetchWord w s) hfault

/-! INBYTES (30_encoding.md R99). -/

@[simp] theorem asmBytes_length (a : Word) (bs : List Byte) : (asmBytes a bs).length = bs.length := by
  induction bs generalizing a with
  | nil => rfl
  | cons b bs ih => simp [asmBytes, ih]

/-- The k-th operation writes the k-th byte, k addresses up in 32-bit arithmetic (log 18). -/
theorem asmBytes_getElem? (a : Word) (bs : List Byte) (k : Nat) (h : k < bs.length) :
    (asmBytes a bs)[k]? = some (.inWrite (a + BitVec.ofNat 32 k) bs[k]) := by
  induction bs generalizing a k with
  | nil => simp at h
  | cons b bs ih =>
    cases k with
    | zero => simp [asmBytes]
    | succ k =>
      have haddr : a + 1#32 + BitVec.ofNat 32 k = a + BitVec.ofNat 32 (k + 1) := by
        rw [BitVec.add_assoc, Nat.add_comm k 1, BitVec.ofNat_add]
      rw [asmBytes, List.getElem?_cons_succ, ih _ _ (Nat.lt_of_succ_lt_succ h), haddr]
      rfl

/-- Settles O55: the k-th address is a 32-bit sum. -/
theorem inBytesAddressesWrap : Obligations.InBytesAddressesWrap :=
  fun a bs k h => ⟨a + BitVec.ofNat 32 k, by simp [BitVec.toNat_add], asmBytes_getElem? a bs k h⟩

/-- Settles O54: the command words by evaluation of the encoder, and INBYTES below 2^32 without the wrap. -/
theorem pseudoInstructionExpansions : Obligations.PseudoInstructionExpansions := by
  intro a n w h bd ct cm fm im cinfo level bs
  have hbytes : ∀ k (hk : k < bs.length), a.toNat + k < 4294967296 →
      ∃ x : Word, x.toNat = a.toNat + k ∧ (expand (.inBytes a bs))[k]? = some (.inWrite x bs[k]) := by
    intro k hk hlt
    obtain ⟨x, hx, hop⟩ := inBytesAddressesWrap a bs k hk
    exact ⟨x, hx.trans (Nat.mod_eq_of_lt hlt), hop⟩
  exact ⟨rfl, rfl, rfl, rfl, ⟨asmBytes_length a bs, hbytes⟩, rfl, rfl, rfl, rfl⟩

end Sys2Proof.Machine

namespace Sys2Proof.Machine

/-! The table and the polynomial division (40_crc.md R120 to R122). -/

/-- What stands above the tested bit goes into no decision of the round: it is only shifted down. -/
theorem crcRound_xor_of_bit_zero (c : Word) {h : Word} (hbit : h.getLsbD 0 = false) :
    crcRound (c ^^^ h) = crcRound c ^^^ (h >>> 1) := by
  unfold crcRound
  rw [BitVec.getLsbD_xor, hbit, Bool.xor_false, BitVec.ushiftRight_xor_distrib]
  cases c.getLsbD 0 with
  | false => rfl
  | true =>
    show (c >>> 1 ^^^ h >>> 1) ^^^ 0xEDB88320#32 = (c >>> 1 ^^^ 0xEDB88320#32) ^^^ h >>> 1
    ac_rfl

/-- n rounds decide on the low n bits: a word without those bits is only shifted down by n. -/
theorem crcRounds_xor_of_low_zero (n : Nat) (c : Word) {h : Word} (hlow : ∀ i < n, h.getLsbD i = false) :
    crcRounds n (c ^^^ h) = crcRounds n c ^^^ (h >>> n) := by
  induction n generalizing c h with
  | zero => simp [crcRounds]
  | succ n ih =>
    have hshift : ∀ i < n, (h >>> 1).getLsbD i = false := fun i hi => by
      rw [BitVec.getLsbD_ushiftRight]; exact hlow (1 + i) (by omega)
    rw [crcRounds, crcRounds, crcRound_xor_of_bit_zero c (hlow 0 n.succ_pos), ih _ hshift, ← BitVec.shiftRight_add,
      Nat.add_comm]

/-- The table index of R122 is the low byte. -/
theorem tableIndex_eq_lowByte (x : Word) : (x &&& 0xFF#32).setWidth 8 = x.setWidth 8 := by
  rw [BitVec.setWidth_and, show (0xFF#32).setWidth 8 = BitVec.allOnes 8 from rfl, BitVec.and_allOnes]

/-- The byte reaches the low byte of the accumulator only. -/
theorem xor_byte_eq_lowByte_xor_rest (a : Word) (b : Byte) :
    a ^^^ b.setWidth 32 = ((a ^^^ b.setWidth 32).setWidth 8).setWidth 32 ^^^ (a >>> 8 <<< 8) := by
  ext i hi
  by_cases h8 : i < 8
  · simp [h8, hi]
  · have hb : b.getLsbD i = false := BitVec.getLsbD_of_ge b i (by omega)
    simp [h8, hb, hi, Nat.add_sub_cancel' (Nat.le_of_not_lt h8)]

theorem shiftRight_shiftLeft_shiftRight (x : Word) (n : Nat) : x >>> n <<< n >>> n = x >>> n := by
  ext i hi
  by_cases hn : n + i < 32
  · simp [hn]
  · simp [hn, BitVec.getLsbD_of_ge x (n + i) (by omega)]

/-- Settles O25: the eight rounds decide on the low byte, whose rounds are the table entry, and only shift the rest. -/
theorem tableStepIsBitSerial : Obligations.TableStepIsBitSerial := by
  intro a b
  have hlow : ∀ i < 8, (a >>> 8 <<< 8).getLsbD i = false := fun i hi => by simp [hi]
  rw [xor_byte_eq_lowByte_xor_rest, crcRounds_xor_of_low_zero 8 _ hlow, shiftRight_shiftLeft_shiftRight, crcStep,
    tableIndex_eq_lowByte, crcTable]

/-! The words of a command, from its row of the map (30_encoding.md R91 to R93). -/

theorem formatNWords_of_mem {op : Byte} {i : Instr} (h : ⟨op, .n, fun _ => i⟩ ∈ opcodeTable) :
    formatNWords op.toNat i := formatNWords_of_row i h rfl fun _ => rfl

theorem formatBWords_of_mem {op : Byte} {f : Byte → Instr} (h : ⟨op, .b, f⟩ ∈ opcodeTable) :
    formatBWords op.toNat f := formatBWords_of_row f h rfl rfl

/-! The six CRC commands (40_crc.md R125 to R130). -/

/-- The listed ROM of R121 is the generated one of R120, entry by entry. -/
theorem crcRom_eq_generated : crcRom = (List.range 256).map fun n => crcTable (BitVec.ofNat 8 n) := by decide +kernel

theorem crcRom_getD (n : Byte) : crcRom.getD n.toNat 0#32 = crcTable n := by
  rw [crcRom_eq_generated]
  simp [n.isLt]

/-- Settles O24: the listed ROM is the generated one. -/
theorem crcTblReadGivesListedEntry : Obligations.CrcTblReadGivesListedEntry := by
  refine ⟨formatBWords_of_mem (op := 0x06#8) (by simp [opcodeTable]), by simp [crcRom_eq_generated],
    fun n => (crcRom_getD n).symm, fun n s => ?_⟩
  rw [crcRom_getD]
  rfl

/-- Settles O19: CRC_INIT is one write of CRC_ACC. -/
theorem crcInitSetsAccumulator : Obligations.CrcInitSetsAccumulator :=
  ⟨formatNWords_of_mem (op := 0x01#8) (by simp [opcodeTable]), fun _ => rfl⟩

/-- Settles O20: CRC_BYTE is one write of CRC_ACC with the step of R122. -/
theorem crcByteStepsAccumulator : Obligations.CrcByteStepsAccumulator :=
  ⟨formatBWords_of_mem (op := 0x02#8) (by simp [opcodeTable]), fun _ _ => rfl⟩

/-- Settles O22: CRC_FINAL is one write of RESULT. -/
theorem crcFinalInvertsAccumulator : Obligations.CrcFinalInvertsAccumulator :=
  ⟨formatNWords_of_mem (op := 0x04#8) (by simp [opcodeTable]), fun _ => rfl⟩

/-- Both answers of a block command that only computes, on a byte string given by its bytes (20_memory.md R61, R62). -/
theorem withBlock_of_bytes {s : State} {d : List Byte} (hlength : d.length = s.srcLen.toNat)
    (hbytes : ∀ i (h : i < d.length), d[i] = inByte s (s.srcAddr.toNat + i)) (cmd : Word) (f : List Byte → State) :
    (s.srcAddr.toNat + s.srcLen.toNat ≤ s.par.inCap → withBlock cmd s (fun d => .next (f d)) = .next (f d)) ∧
    (s.par.inCap < s.srcAddr.toNat + s.srcLen.toNat →
      withBlock cmd s (fun d => .next (f d)) = .next (recordFault .srcRange cmd s)) :=
  ⟨fun hin => by rw [withBlock_inRange hin, blockBytes_eq hlength hbytes], fun hout => withBlock_outOfRange hout cmd _⟩

/-- Settles O21: in range one write of CRC_ACC, the update over the block's bytes; out of range the fault record only. -/
theorem crcBlockRunsOverInput : Obligations.CrcBlockRunsOverInput :=
  ⟨formatNWords_of_mem (op := 0x03#8) (by simp [opcodeTable]),
    fun s _ hlength hbytes => withBlock_of_bytes hlength hbytes _ fun d => s.setCrcAcc (crcUpd s.crcAcc d)⟩

/-- Settles O23: in range one write of RESULT, the CRC of the block's bytes; out of range the fault record only. -/
theorem crcOneshotChecksumsInput : Obligations.CrcOneshotChecksumsInput :=
  ⟨formatNWords_of_mem (op := 0x05#8) (by simp [opcodeTable]),
    fun s _ hlength hbytes => withBlock_of_bytes hlength hbytes _ fun d => s.setResult (crc32 d)⟩

/-! Streamed checksums (40_crc.md R124). -/

/-- Two states that read the same input: the same IN and the same parameters. -/
structure SameInput (s t : State) : Prop where
  inMem : t.inMem = s.inMem
  par   : t.par = s.par

theorem exec_sameInput {i : Instr} {s t : State} (h : exec i s = .next t) : SameInput s t :=
  ⟨by rw [(exec_cases h).rest], (exec_cases h).par_eq⟩

theorem SameInput.inRange {s t : State} (h : SameInput s t) {f : Feed} (hf : f.inRange s) : f.inRange t := by
  cases f with
  | byte b => trivial
  | block a n => exact hf.trans_eq (congrArg Params.inCap h.par.symm)

theorem SameInput.feedBytes_eq {s t : State} (h : SameInput s t) (fs : List Feed) : feedBytes t fs = feedBytes s fs := by
  simp only [feedBytes, memReadIn_congr h.inMem h.par]

theorem feedBytes_cons (s : State) (f : Feed) (fs : List Feed) :
    feedBytes s (f :: fs) = feedBytes s [f] ++ feedBytes s fs := by simp [feedBytes]

/-- A byte command and a block command that run the step over their bytes on the same part of the state, which the block
registers are not in. -/
structure RunsStep {α : Type} (part : State → α) (stp : α → Byte → α) (byteCmd : Byte → Instr) (blockCmd : Instr) :
    Prop where
  source (s : State) (a n : Word) : part { s with srcAddr := a, srcLen := n } = part s
  byte (b : Byte) (s : State) : ∃ t, exec (byteCmd b) s = .next t ∧ part t = stp (part s) b
  block {s : State} (h : s.srcAddr.toNat + s.srcLen.toNat ≤ s.par.inCap) :
    ∃ t, exec blockCmd s = .next t ∧ part t = (blockBytes s).foldl stp (part s)

section
variable {α : Type} {part : State → α} {stp : α → Byte → α} {byteCmd : Byte → Instr} {blockCmd : Instr}

/-- One piece runs the step over its bytes and leaves the input as it is for the pieces after it. -/
theorem RunsStep.feed_cons_eq (h : RunsStep part stp byteCmd blockCmd) {s : State} {f : Feed} (hf : f.inRange s)
    (fs : List Feed) : ∃ t, feed byteCmd blockCmd (f :: fs) s = feed byteCmd blockCmd fs t ∧ SameInput s t ∧
      part t = (feedBytes s [f]).foldl stp (part s) := by
  cases f with
  | byte b =>
    obtain ⟨t, hexec, hpart⟩ := h.byte b s
    exact ⟨t, by rw [feed, hexec, andThen_next], exec_sameInput hexec, hpart⟩
  | block a n =>
    obtain ⟨t, hexec, hpart⟩ := h.block (s := { s with srcAddr := a, srcLen := n }) hf
    have hbytes : blockBytes { s with srcAddr := a, srcLen := n } = feedBytes s [.block a n] :=
      (List.append_nil _).symm
    obtain ⟨hin, hpar⟩ := exec_sameInput hexec
    refine ⟨t, by rw [feed, hexec, andThen_next], ⟨hin, hpar⟩, ?_⟩
    rw [hpart, hbytes, h.source]

/-- Any split of the input runs the step over all the bytes in order. -/
theorem RunsStep.foldl_feed (h : RunsStep part stp byteCmd blockCmd) {s : State} {fs : List Feed}
    (hfs : ∀ f ∈ fs, f.inRange s) :
    ∃ t, feed byteCmd blockCmd fs s = .next t ∧ part t = (feedBytes s fs).foldl stp (part s) := by
  induction fs generalizing s with
  | nil => exact ⟨s, rfl, rfl⟩
  | cons f fs ih =>
    obtain ⟨hf, hrest⟩ := List.forall_mem_cons.1 hfs
    obtain ⟨u, hhead, hsame, hu⟩ := h.feed_cons_eq hf fs
    obtain ⟨t, htail, ht⟩ := ih fun g hg => hsame.inRange (hrest g hg)
    refine ⟨t, hhead.trans htail, ?_⟩
    rw [ht, hu, hsame.feedBytes_eq, feedBytes_cons s f fs, List.foldl_append]

end

theorem crc_runsStep : RunsStep State.crcAcc crcStep .crcByte .crcBlock where
  source _ _ _ := rfl
  byte _ _ := ⟨_, rfl, rfl⟩
  block {s} h := ⟨_, (exec_crcBlock s).trans (withBlock_inRange h _ _), rfl⟩

/-- Settles O26: the pieces run CRC_ACC from CRC_INIT's value over all the bytes, and CRC_FINAL inverts it. -/
theorem streamedCrcIsOneshotCrc : Obligations.StreamedCrcIsOneshotCrc := by
  refine ⟨fun a x y => List.foldl_append.symm, fun s fs hfs => ?_⟩
  have hinit : exec .crcInit s = .next (s.setCrcAcc 0xFFFFFFFF#32) := rfl
  have hsame := exec_sameInput hinit
  obtain ⟨t, hfeed, ht⟩ := crc_runsStep.foldl_feed fun f hf => hsame.inRange (hfs f hf)
  refine ⟨t.setResult (t.crcAcc ^^^ 0xFFFFFFFF#32), by rw [hinit, andThen_next, hfeed]; rfl, ?_⟩
  rw [hsame.feedBytes_eq] at ht
  exact congrArg (· ^^^ 0xFFFFFFFF#32) ht

end Sys2Proof.Machine

namespace Sys2Proof.Machine

/-! The Adler step and the Adler-32 value in integers (41_adler.md R150, R151). -/

theorem adlerStep_s1_toNat (p : BitVec 16 × BitVec 16) (b : Byte) :
    (adlerStep p b).1.toNat = (p.1.toNat + b.toNat) % 65521 := by
  simp only [adlerStep, BitVec.toNat_ofNat]; omega

theorem adlerStep_s2_toNat (p : BitVec 16 × BitVec 16) (b : Byte) :
    (adlerStep p b).2.toNat = (p.2.toNat + (adlerStep p b).1.toNat) % 65521 := by
  rw [adlerStep_s1_toNat]; simp only [adlerStep, BitVec.toNat_ofNat]; omega

/-- The two sums fill the word's halves, so no product or sum is cut off. -/
theorem adlerValue_toNat (p : BitVec 16 × BitVec 16) : (adlerValue p).toNat = p.2.toNat * 65536 + p.1.toNat := by
  simp only [adlerValue, BitVec.toNat_ofNat]; omega

/-- What the ADLER register reads is the Adler-32 value of the sums (10_state.md R32). -/
theorem regRead_adler (s : State) : regRead s 0x1C#32 = adlerValue (s.s1, s.s2) := by
  have hshift : (s.s2.toNat <<< 16) % 2 ^ 32 = s.s2.toNat <<< 16 := by rw [Nat.shiftLeft_eq]; omega
  have hread : regRead s 0x1C#32 = s.s2.setWidth 32 <<< 16 ||| s.s1.setWidth 32 := rfl
  apply BitVec.eq_of_toNat_eq
  rw [hread, adlerValue_toNat, BitVec.toNat_or, BitVec.toNat_shiftLeft, BitVec.toNat_setWidth_of_le (by decide),
    BitVec.toNat_setWidth_of_le (by decide), hshift, ← Nat.shiftLeft_add_eq_or_of_lt s.s1.isLt, Nat.shiftLeft_eq]

/-! The five Adler commands (41_adler.md R152 to R156). -/

/-- Settles O27: ADLER_INIT is one write of the sums. -/
theorem adlerInitSetsSums : Obligations.AdlerInitSetsSums :=
  ⟨formatNWords_of_mem (op := 0x10#8) (by simp [opcodeTable]), fun _ => rfl⟩

/-- Settles O28: ADLER_BYTE is one write of the sums with the step of R150. -/
theorem adlerByteStepsSums : Obligations.AdlerByteStepsSums :=
  ⟨formatBWords_of_mem (op := 0x11#8) (by simp [opcodeTable]), fun b s =>
    ⟨s.setSums (adlerStep (s.s1, s.s2) b), rfl, adlerStep_s1_toNat _ b, adlerStep_s2_toNat _ b, rfl⟩⟩

/-- Settles O29: in range one write of the sums, the update over the block's bytes; out of range the fault record only. -/
theorem adlerBlockRunsOverInput : Obligations.AdlerBlockRunsOverInput :=
  ⟨formatNWords_of_mem (op := 0x12#8) (by simp [opcodeTable]),
    fun s _ hlength hbytes => withBlock_of_bytes hlength hbytes _ fun d => s.setSums (adlerUpd (s.s1, s.s2) d)⟩

/-- Settles O30: ADLER_FINAL is one write of RESULT, the value that ADLER reads. -/
theorem adlerFinalReportsSums : Obligations.AdlerFinalReportsSums :=
  ⟨formatNWords_of_mem (op := 0x13#8) (by simp [opcodeTable]), fun s =>
    ⟨s.setResult (adlerValue (s.s1, s.s2)), rfl, adlerValue_toNat _, (regRead_adler s).symm, rfl⟩⟩

/-- Settles O31: in range one write of RESULT, the Adler-32 of the block's bytes; out of range the fault record only. -/
theorem adlerOneshotChecksumsInput : Obligations.AdlerOneshotChecksumsInput := by
  refine ⟨formatNWords_of_mem (op := 0x14#8) (by simp [opcodeTable]), fun s d hlength hbytes => ?_⟩
  obtain ⟨hinRange, houtOfRange⟩ := withBlock_of_bytes hlength hbytes 0x14000000#32 fun d => s.setResult (adler32 d)
  exact ⟨fun hin => ⟨s.setResult (adler32 d), hinRange hin, adlerValue_toNat _, rfl⟩, houtOfRange⟩

/-! Streamed Adler-32 and unreduced sums (41_adler.md R150). -/

/-- The two sums, as the pair that the step runs on. -/
def State.sums (s : State) : BitVec 16 × BitVec 16 := (s.s1, s.s2)

theorem adler_runsStep : RunsStep State.sums adlerStep .adlerByte .adlerBlock where
  source _ _ _ := rfl
  byte _ _ := ⟨_, rfl, rfl⟩
  block {s} h := ⟨_, (exec_adlerBlock s).trans (withBlock_inRange h _ _), rfl⟩

/-- Settles O32: the pieces run the sums from ADLER_INIT's values over all the bytes, and ADLER_FINAL joins them. -/
theorem streamedAdlerIsOneshotAdler : Obligations.StreamedAdlerIsOneshotAdler := by
  intro s fs hfs
  have hinit : exec .adlerInit s = .next (s.setSums adlerStart) := rfl
  have hsame := exec_sameInput hinit
  obtain ⟨t, hfeed, ht⟩ := adler_runsStep.foldl_feed fun f hf => hsame.inRange (hfs f hf)
  refine ⟨t.setResult (adlerValue t.sums), by rw [hinit, andThen_next, hfeed]; rfl, ?_⟩
  rw [hsame.feedBytes_eq] at ht
  exact congrArg adlerValue ht

/-- One step of the sums without the modulus. -/
def unreducedStep (q : Nat × Nat) (b : Byte) : Nat × Nat := (q.1 + b.toNat, q.2 + (q.1 + b.toNat))

/-- The sums p are the unreduced sums q modulo 65521. -/
structure ReducesTo (q : Nat × Nat) (p : BitVec 16 × BitVec 16) : Prop where
  s1 : p.1.toNat = q.1 % 65521
  s2 : p.2.toNat = q.2 % 65521

theorem ReducesTo.step {q : Nat × Nat} {p : BitVec 16 × BitVec 16} (h : ReducesTo q p) (b : Byte) :
    ReducesTo (unreducedStep q b) (adlerStep p b) := by
  have hs1 : (adlerStep p b).1.toNat = (q.1 + b.toNat) % 65521 := by
    rw [adlerStep_s1_toNat, h.s1, Nat.mod_add_mod]
  refine ⟨hs1, ?_⟩
  rw [adlerStep_s2_toNat, hs1, h.s2, ← Nat.add_mod]
  rfl

theorem ReducesTo.foldl {q : Nat × Nat} {p : BitVec 16 × BitVec 16} (h : ReducesTo q p) (d : List Byte) :
    ReducesTo (d.foldl unreducedStep q) (adlerUpd p d) := by
  induction d generalizing q p with
  | nil => exact h
  | cons b d ih => exact ih (h.step b)

/-- Settles O33: every step keeps the reduced sums the unreduced ones modulo 65521, and sums below 65521 start so. -/
theorem adlerAgreesWithUnreducedSums : Obligations.AdlerAgreesWithUnreducedSums := by
  intro p d hs1 hs2
  have hstart : ReducesTo (p.1.toNat, p.2.toNat) p := ⟨(Nat.mod_eq_of_lt hs1).symm, (Nat.mod_eq_of_lt hs2).symm⟩
  have hfinal := hstart.foldl d
  exact ⟨hfinal.s1, hfinal.s2⟩

end Sys2Proof.Machine

namespace Sys2Proof.Machine

/-! The zlib header in integers (42_zlib.md R170 to R172, R177). -/

/-- CINFO and the method 8 fill the byte's halves. -/
theorem cmf_toNat (cinfo : BitVec 4) : (cmf cinfo).toNat = cinfo.toNat * 16 + 8 := by
  have hshift : (cinfo.toNat <<< 4) % 2 ^ 8 = cinfo.toNat <<< 4 := by rw [Nat.shiftLeft_eq]; omega
  rw [cmf, BitVec.toNat_or, BitVec.toNat_shiftLeft, BitVec.toNat_setWidth_of_le (by decide), hshift,
    ← Nat.shiftLeft_add_eq_or_of_lt (by decide), Nat.shiftLeft_eq]
  rfl

theorem flgBase_toNat (level : BitVec 2) : (flgBase level).toNat = level.toNat * 64 := by
  rw [flgBase, BitVec.toNat_shiftLeft, BitVec.toNat_setWidth_of_le (by decide), Nat.shiftLeft_eq]
  omega

theorem fcheck_le (cinfo : BitVec 4) (level : BitVec 2) : fcheck cinfo level ≤ 31 := Nat.sub_le _ _

/-- FCHECK, 31 included, stays in the six bits that FLG_BASE leaves free, so the or of R172 is a sum. -/
theorem flg_toNat (cinfo : BitVec 4) (level : BitVec 2) :
    (flg cinfo level).toNat = (flgBase level).toNat + fcheck cinfo level := by
  have hcheck := fcheck_le cinfo level
  have hbase : (flgBase level).toNat = level.toNat <<< 6 := by rw [flgBase_toNat, Nat.shiftLeft_eq]
  rw [flg, BitVec.toNat_or, BitVec.toNat_ofNat, Nat.mod_eq_of_lt (by omega), hbase,
    ← Nat.shiftLeft_add_eq_or_of_lt (by omega)]

/-- The header is v + FCHECK with v = CMF * 256 + FLG_BASE. -/
theorem header_eq_add_fcheck (cinfo : BitVec 4) (level : BitVec 2) :
    (cmf cinfo).toNat * 256 + (flg cinfo level).toNat =
      (cmf cinfo).toNat * 256 + (flgBase level).toNat + fcheck cinfo level := by
  rw [flg_toNat, Nat.add_assoc]

/-- Two bytes fit in the word, so the header is not cut off. -/
theorem zlibHeader_toNat (cinfo : BitVec 4) (level : BitVec 2) :
    (zlibHeader cinfo level).toNat = (cmf cinfo).toNat * 256 + (flg cinfo level).toNat := by
  rw [zlibHeader, BitVec.toNat_ofNat, Nat.mod_eq_of_lt (by omega)]

/-- Settles O34: ZLIB_HDR is one write of RESULT, the header v + FCHECK. -/
theorem zlibHdrReportsHeader : Obligations.ZlibHdrReportsHeader := by
  refine ⟨formatNWords_of_mem (op := 0x20#8) (by simp [opcodeTable]), fun s =>
    ⟨s.setResult (zlibHeader s.cinfo s.level), rfl, ?_, rfl⟩⟩
  rw [State.setResult_result, zlibHeader_toNat, header_eq_add_fcheck, fcheck, cmf_toNat, flgBase_toNat]

/-- Settles O35: FCHECK is what v lacks to the next multiple of 31. -/
theorem headerIsMultipleOf31 : Obligations.HeaderIsMultipleOf31 := by
  intro cinfo level
  rw [header_eq_add_fcheck, fcheck]
  omega

end Sys2Proof.Machine

namespace Sys2Proof.Machine

/-! Frames (43_framer_stream.md R190, R191). -/

/-- Four big-endian bytes spell the word they were made of (00_scope.md R9). -/
theorem bigEndian_be32 (v : Word) : bigEndian (be32 v) = v.toNat := by
  have hlt := v.isLt
  simp only [bigEndian, be32, List.foldl_cons, List.foldl_nil, BitVec.extractLsb'_toNat, Nat.shiftRight_eq_div_pow]
  omega

theorem frame_take_length (tg p : List Byte) : (frame tg p).take 4 = be32 (BitVec.ofNat 32 p.length) := rfl

/-- What stands after the length field. -/
theorem frame_drop_length (tg p : List Byte) : (frame tg p).drop 4 = tg ++ (p ++ be32 (crc32 (tg ++ p))) := by
  have hassoc : frame tg p = be32 (BitVec.ofNat 32 p.length) ++ (tg ++ (p ++ be32 (crc32 (tg ++ p)))) := by
    simp only [frame, List.append_assoc]
  rw [hassoc, List.drop_left' (be32_length _)]

/-- What stands after the tag. -/
theorem frame_drop_tag {tg : List Byte} (htag : tg.length = 4) (p : List Byte) :
    (frame tg p).drop 8 = p ++ be32 (crc32 (tg ++ p)) := by
  rw [show 8 = 4 + 4 from rfl, ← List.drop_drop, frame_drop_length, List.drop_left' htag]

/-- Settles O36: the frame is cut behind each of its four parts in turn. -/
theorem frameRoundTrip : Obligations.FrameRoundTrip := by
  intro tg payload htag hlt
  have hcrc : (frame tg payload).drop (8 + payload.length) = be32 (crc32 (tg ++ payload)) := by
    rw [← List.drop_drop, frame_drop_tag htag, List.drop_left]
  have hcovered : ((frame tg payload).drop 4).take (4 + payload.length) = tg ++ payload := by
    rw [frame_drop_length, ← List.append_assoc, List.take_left' (by simp [htag])]
  refine ⟨?_, ?_, ?_, ?_, ?_⟩
  · rw [frame_take_length, bigEndian_be32, BitVec.toNat_ofNat, Nat.mod_eq_of_lt hlt]
  · rw [frame_drop_length, List.take_left' htag]
  · rw [frame_drop_tag htag, List.take_left]
  · simp only [frame, List.length_append, be32_length, htag]; omega
  · rw [hcrc, bigEndian_be32, hcovered]

/-! STREAM_NEW (43_framer_stream.md R197). -/

/-- The state that STREAM_NEW answers. -/
def streamStarted (s : State) : State := (outAppend signature (s.setOut s.outMem 0#32)).setSeq .haveSignature

theorem exec_streamNew (s : State) : exec .streamNew s = .next (streamStarted s) := rfl

theorem streamStarted_eq (s : State) :
    streamStarted s = { s with outMem := (streamStarted s).outMem, outLen := 8#32, seq := .haveSignature } := rfl

@[simp] theorem streamStarted_par (s : State) : (streamStarted s).par = s.par := rfl

theorem streamStarted_outBytes (s : State) : outBytes (streamStarted s) = signature :=
  outBytes_outAppend (bs := signature) (s := s.setOut s.outMem 0#32) (by simp)

theorem streamStarted_outByte {s : State} {a : Nat} (h : 8 ≤ a) : outByte (streamStarted s) a = outByte s a :=
  outByte_outAppend_outside signature (s.setOut s.outMem 0#32) a (.inr (by simpa using h))

/-- Settles O37: the signature is appended to the empty stream, which touches no byte from 8 up. -/
theorem streamNewWritesSignature : Obligations.StreamNewWritesSignature :=
  ⟨formatNWords_of_mem (op := 0x30#8) (by simp [opcodeTable]), fun s =>
    ⟨streamStarted s, exec_streamNew s, streamStarted_eq s, streamStarted_outBytes s,
      fun _ => streamStarted_outByte, fun _ => rfl⟩⟩

/-! The three WRITE_* commands (43_framer_stream.md R195, R198 to R200). -/

theorem outOfOrder_ihdr_iff {q : Seq} : outOfOrder .ihdr q = true ↔ q ≠ .haveSignature := by simp [outOfOrder]

theorem outOfOrder_idat_iff {q : Seq} : outOfOrder .idat q = true ↔ q ≠ .haveHeader ∧ q ≠ .haveData := by
  simp [outOfOrder]

/-- WRITE_IEND is in order where WRITE_IDAT is. -/
theorem outOfOrder_iend_eq_idat (q : Seq) : outOfOrder .iend q = outOfOrder .idat q := rfl

/-- What a completed chunk write leaves, with f the bytes of its frame. -/
theorem chunkWritten_spec {k : Chunk} {p f : List Byte} {s : State} (hwf : s.par.wf)
    (hfits : s.outLen.toNat + (12 + p.length) ≤ s.par.outCap) (hf : frame (tag k) p = f) :
    Appended f s (chunkWritten k p s) ∧ (∀ a, inByte (chunkWritten k p s) a = inByte s a) ∧
      chunkWritten k p s = { s with
        outMem := (chunkWritten k p s).outMem, outLen := (chunkWritten k p s).outLen,
        seq := seqAfter k, result := crc32 (tag k ++ p) } := by
  obtain ⟨-, -, -, hcap⟩ := hwf
  subst hf
  exact ⟨appended_chunkWritten (by omega), chunkWritten_inByte k p s, by rw [chunkWritten_eq]⟩

/-- The 25 bytes of an IHDR frame, the length field written out (43_framer_stream.md R198). -/
theorem frame_ihdr (s : State) : frame (tag .ihdr) (ihdrPayload s) =
    [0x00#8, 0x00#8, 0x00#8, 0x0D#8, 0x49#8, 0x48#8, 0x44#8, 0x52#8] ++ ihdrPayload s ++
      be32 (crc32 (tag .ihdr ++ ihdrPayload s)) := by
  have hlength : be32 (BitVec.ofNat 32 13) = [0x00#8, 0x00#8, 0x00#8, 0x0D#8] := by decide
  rw [frame, ihdrPayload_length, hlength]
  rfl

theorem exec_writeIhdr_admitted {s : State} (hseq : s.seq ≠ .start)
    (horder : s.strict = true → s.seq = .haveSignature) :
    exec .writeIhdr s = appendChunk .ihdr (ihdrPayload s) 0x31000000#32 s :=
  (exec_writeIhdr s).trans (admitChunk_admitted hseq (fun hs => by simp [outOfOrder, horder hs]) _ _)

/-- Settles O38: the admission, then the end of a chunk write with the 13 bytes of the IHDR registers. -/
theorem writeIhdrAppendsHeader : Obligations.WriteIhdrAppendsHeader := by
  refine ⟨formatNWords_of_mem (op := 0x31#8) (by simp [opcodeTable]), fun s p hwf hp => ?_⟩
  obtain rfl : p = ihdrPayload s := hp
  refine ⟨fun hstart => ?_, fun hseq hstrict horder => ?_, fun hseq horder hover => ?_, fun hseq horder hfits => ?_⟩
  · exact (exec_writeIhdr s).trans (admitChunk_start hstart _ _ _)
  · exact (exec_writeIhdr s).trans (admitChunk_order hseq hstrict (outOfOrder_ihdr_iff.2 horder) _ _)
  · exact (exec_writeIhdr_admitted hseq horder).trans (appendChunk_overflow hover _)
  · obtain ⟨happended, hin, hrest⟩ := chunkWritten_spec (p := ihdrPayload s) hwf hfits (frame_ihdr s)
    refine ⟨_, (exec_writeIhdr_admitted hseq horder).trans (appendChunk_fits hfits _),
      chunkWritten_result _ _ _, ?_, hin, ?_⟩
    · rwa [chunkWritten_result]
    · rwa [chunkWritten_result]

/-- The envelope adds two header bytes and a checksum of four (42_zlib.md R174). -/
theorem envelope_length (cinfo : BitVec 4) (level : BitVec 2) (c raw : List Byte) :
    ([cmf cinfo, flg cinfo level] ++ c ++ be32 (adler32 raw)).length = 6 + c.length := by
  simp only [List.length_append, List.length_cons, List.length_nil, be32_length]; omega

theorem idatAnswer_err {s : State} {raw : List Byte} {e : Word} (h : deflate s.par s.level raw = .err e) :
    idatAnswer s raw = .next (recordFault .deflateFail e s) := by
  rw [idatAnswer, zlibEnvelope_err h]; rfl

theorem idatAnswer_ok {s : State} {raw c : List Byte} (h : deflate s.par s.level raw = .ok c) :
    idatAnswer s raw =
      appendChunk .idat ([cmf s.cinfo, flg s.cinfo s.level] ++ c ++ be32 (adler32 raw)) 0x32000000#32 s := by
  rw [idatAnswer, zlibEnvelope_ok h]

/-- Settles O39: the admission, the range check, DEFLATE, then the end of a chunk write with the envelope. -/
theorem writeIdatAppendsEnvelope : Obligations.WriteIdatAppendsEnvelope := by
  refine ⟨formatNWords_of_mem (op := 0x32#8) (by simp [opcodeTable]), fun s raw hwf hlength hbytes => ?_⟩
  obtain rfl := blockBytes_eq hlength hbytes
  refine ⟨fun hstart => ?_, fun hseq hstrict hheader hdata => ?_, fun hseq horder => ?_⟩
  · exact (exec_writeIdat s).trans (admitChunk_start hstart _ _ _)
  · exact (exec_writeIdat s).trans (admitChunk_order hseq hstrict (outOfOrder_idat_iff.2 ⟨hheader, hdata⟩) _ _)
  have hadmitted := exec_writeIdat_admitted hseq horder
  refine ⟨fun hout => hadmitted.trans (withBlock_outOfRange hout _ _), fun hin => ?_⟩
  replace hadmitted := hadmitted.trans (withBlock_inRange hin _ _)
  refine ⟨fun e he => hadmitted.trans (idatAnswer_err he), fun c hc => ?_⟩
  have hpayload := envelope_length s.cinfo s.level c (blockBytes s)
  generalize hp : [cmf s.cinfo, flg s.cinfo s.level] ++ c ++ be32 (adler32 (blockBytes s)) = p at hpayload ⊢
  replace hadmitted : exec .writeIdat s = appendChunk .idat p 0x32000000#32 s := by
    rw [hadmitted, idatAnswer_ok hc, hp]
  refine ⟨fun hover => hadmitted.trans (appendChunk_overflow (by omega) _), fun hfits => ?_⟩
  have hfits' : s.outLen.toNat + (12 + p.length) ≤ s.par.outCap := by omega
  obtain ⟨happended, hinput, hrest⟩ := chunkWritten_spec (k := .idat) hwf hfits' rfl
  refine ⟨_, hadmitted.trans (appendChunk_fits hfits' _), chunkWritten_result _ _ _, ?_, hinput, ?_⟩
  · rwa [chunkWritten_result, ← hpayload]
  · rwa [chunkWritten_result]

/-- The twelve bytes of every IEND frame (43_framer_stream.md R200). -/
theorem frame_iend : frame (tag .iend) [] =
    [0x00#8, 0x00#8, 0x00#8, 0x00#8, 0x49#8, 0x45#8, 0x4E#8, 0x44#8, 0xAE#8, 0x42#8, 0x60#8, 0x82#8] := by
  decide +kernel

theorem exec_writeIend_admitted {s : State} (hseq : s.seq ≠ .start)
    (horder : s.strict = true → s.seq = .haveHeader ∨ s.seq = .haveData) :
    exec .writeIend s = appendChunk .iend [] 0x33000000#32 s :=
  have hadmit (hs : s.strict = true) : outOfOrder .iend s.seq = false :=
    (outOfOrder_iend_eq_idat s.seq).trans (outOfOrder_idat_eq_false.2 (horder hs))
  (exec_writeIend s).trans (admitChunk_admitted hseq hadmit _ _)

theorem crc32_iend : crc32 (tag .iend ++ []) = 0xAE426082#32 := by decide +kernel

/-- Settles O40: the admission, then the end of a chunk write with no payload. -/
theorem writeIendAppendsTrailer : Obligations.WriteIendAppendsTrailer := by
  refine ⟨formatNWords_of_mem (op := 0x33#8) (by simp [opcodeTable]), fun s hwf =>
    ⟨fun hstart => ?_, fun hseq hstrict hheader hdata => ?_, fun hseq horder => ?_⟩⟩
  · exact (exec_writeIend s).trans (admitChunk_start hstart _ _ _)
  · have hout := (outOfOrder_iend_eq_idat s.seq).trans (outOfOrder_idat_iff.2 ⟨hheader, hdata⟩)
    exact (exec_writeIend s).trans (admitChunk_order hseq hstrict hout _ _)
  have hadmitted := exec_writeIend_admitted hseq horder
  refine ⟨fun hover => hadmitted.trans (appendChunk_overflow hover _), fun hfits => ?_⟩
  obtain ⟨happended, hinput, hrest⟩ := chunkWritten_spec (p := []) hwf hfits frame_iend
  rw [crc32_iend] at hrest
  exact ⟨_, hadmitted.trans (appendChunk_fits hfits _), happended, hinput, hrest⟩

/-! The sequencer (43_framer_stream.md R196). -/

/-- The sequencer state after a command that completes. -/
def completedSeq (i : Instr) (q : Seq) : Seq :=
  match i with
  | .streamNew => .haveSignature
  | .writeIhdr => seqAfter .ihdr
  | .writeIdat => seqAfter .idat
  | .writeIend => seqAfter .iend
  | _ => q

theorem completedSeq_of_not_streamCommand {i : Instr} (h : isStreamCommand i = false) (q : Seq) :
    completedSeq i q = q := by
  revert h
  cases i <;> simp [completedSeq, isStreamCommand]

theorem isStreamCommand_chunkCommand (k : Chunk) : isStreamCommand (chunkCommand k) = true := by cases k <;> rfl

theorem completedSeq_chunkCommand (k : Chunk) (q : Seq) : completedSeq (chunkCommand k) q = seqAfter k := by
  cases k <;> rfl

/-- A command either records a fault and keeps SEQ, or completes with FAULT as it was. -/
theorem CommandEffect.fault_or_completed {i : Instr} {s t : State} (h : CommandEffect i s t) :
    (t.fault = true ∧ t.seq = s.seq) ∨ (t.fault = s.fault ∧ t.seq = completedSeq i s.seq) := by
  cases h with
  | faulted c w => exact .inl ⟨rfl, rfl⟩
  | checksum acc p res hi => exact .inr ⟨rfl, (completedSeq_of_not_streamCommand hi _).symm⟩
  | newStream hi => subst hi; exact .inr ⟨rfl, rfl⟩
  | chunk k p hi =>
    subst hi
    exact .inr ⟨chunkWritten_fault k p s, by rw [chunkWritten_seq, completedSeq_chunkCommand]⟩

/-- Settles O41: the command faulted, or SEQ is as the command's kind says. -/
theorem sequencerNextState : Obligations.SequencerNextState := by
  intro i s t hclear hexec
  rcases (exec_cases hexec).fault_or_completed with ⟨hfault, hseq⟩ | ⟨hfault, hseq⟩
  · exact ⟨fun _ => hseq, fun hno => by simp [hfault] at hno⟩
  · refine ⟨fun hyes => by simp [hfault, hclear] at hyes, fun _ => ⟨?_, ?_, ?_, ?_, fun hi => ?_⟩⟩
    · rintro rfl; exact hseq
    · rintro rfl; exact hseq
    · rintro rfl; exact hseq
    · rintro rfl; exact hseq
    · rw [hseq, completedSeq_of_not_streamCommand hi]

/-! What leaves the stream alone (10_state.md R41, R45). -/

theorem sameStream_of_sameOut {s t : State} (hpar : t.par = s.par) (hseq : t.seq = s.seq)
    (hlen : t.outLen = s.outLen) (hmem : t.outMem = s.outMem) : SameStream s t :=
  ⟨hpar, hseq, hlen, outBytes_of_outMem hmem hpar hlen⟩

theorem CommandEffect.sameStream {i : Instr} {s t : State} (h : CommandEffect i s t)
    (hi : isStreamCommand i = false) : SameStream s t := by
  cases h with
  | faulted c w => exact sameStream_of_sameOut rfl rfl rfl rfl
  | checksum acc p res => exact sameStream_of_sameOut rfl rfl rfl rfl
  | newStream hnew => subst hnew; cases hi
  | chunk k p hk => simp [hk, isStreamCommand_chunkCommand] at hi

theorem issueCommand_sameStream {w : Word} {s t : State} (h : issueCommand w s = .next t)
    (hw : ∀ i, decode w = .command i → isStreamCommand i = false) : SameStream s t := by
  rcases issueCommand_cases h with ⟨-, rfl⟩ | ⟨-, -, rfl⟩ | ⟨-, i, hdecode, hexec⟩
  · exact sameStream_of_sameOut rfl rfl rfl rfl
  · exact sameStream_of_sameOut rfl rfl rfl rfl
  · exact (exec_cases hexec).sameStream (hw i hdecode)

/-- The command of a CMD write is the one its word decodes to. -/
theorem commandOf_regWrite {o w : Word} {i : Instr} (ho : regAt o = some .cmd) (hd : decode w = .command i) :
    commandOf (.regWrite o w) = some i := by simp [commandOf, ho, hd, Decoded.instr?]

theorem perform_sameStream {op : HostOp} {s t : State} (h : perform op s = .next t) (hreset : op ≠ .reset)
    (hop : ∀ i, commandOf op = some i → isStreamCommand i = false) : SameStream s t := by
  by_cases hcmd : ∃ o w, op = .regWrite o w ∧ regAt o = some .cmd
  · obtain ⟨o, w, rfl, ho⟩ := hcmd
    have hissue : issueCommand w s = .next t := by simpa [perform, regWrite, ho] using h
    exact issueCommand_sameStream hissue fun i hd => hop i (commandOf_regWrite ho hd)
  · obtain ⟨hseq, -, -, -, hlen, hmem, hpar, -⟩ :=
      perform_other h hreset fun o w hw ho => hcmd ⟨o, w, hw, ho⟩
    exact sameStream_of_sameOut hpar hseq hlen hmem

/-- Settles O42: the operation leaves the stream alone, and the index is no part of it. -/
theorem otherOperationsKeepStream : Obligations.OtherOperationsKeepStream := by
  intro s t op hop hreset hnotStream hstep
  rw [step_of_op hop] at hstep
  obtain ⟨u, hperform, rfl⟩ := onNext_eq_next hstep
  obtain ⟨hpar, hseq, hlen, hbytes⟩ := perform_sameStream hperform hreset hnotStream
  exact ⟨hpar, hseq, hlen, hbytes⟩

/-! A complete stream (43_framer_stream.md R201). -/

/-- What a chunk write that completes does to the stream. -/
structure ChunkCompleted (k : Chunk) (p : List Byte) (s t : State) : Prop where
  par   : t.par = s.par
  seq   : t.seq = seqAfter k
  bytes : outBytes t = outBytes s ++ frame (tag k) p

/-- An answer with FAULT = 0 is no recorded fault. -/
theorem ne_recordFault {t : State} (hclear : t.fault = false) (c : FaultCode) (w : Word) (s : State) :
    (Host.Outcome.next t : Result) ≠ .next (recordFault c w s) := by
  intro h
  cases h
  cases hclear

section
variable {k : Chunk} {p : List Byte} {cmd : Word} {s t : State} (hclear : t.fault = false)
include hclear

theorem admitChunk_completed {body : Result} (h : admitChunk k cmd s body = .next t) : body = .next t := by
  rcases admitChunk_cases h with ⟨-, ht⟩ | ⟨-, -, -, ht⟩ | ⟨-, -, ht⟩
  · exact absurd ht (ne_recordFault hclear _ _ _)
  · exact absurd ht (ne_recordFault hclear _ _ _)
  · exact ht.symm

theorem withBlock_completed {body : List Byte → Result} (h : withBlock cmd s body = .next t) :
    body (blockBytes s) = .next t := by
  rcases withBlock_cases h with ⟨-, ht⟩ | ⟨-, ht⟩
  · exact ht.symm
  · exact absurd ht (ne_recordFault hclear _ _ _)

theorem appendChunk_completed (hwf : s.par.wf) (h : appendChunk k p cmd s = .next t) : ChunkCompleted k p s t := by
  obtain ⟨-, -, -, hcap⟩ := hwf
  rcases appendChunk_cases h with ⟨hfits, ht⟩ | ⟨-, ht⟩
  · cases ht
    exact ⟨chunkWritten_par k p s, chunkWritten_seq k p s, chunkWritten_outBytes (by omega)⟩
  · exact absurd ht (ne_recordFault hclear _ _ _)

theorem writeIhdr_completed (hwf : s.par.wf) (h : exec .writeIhdr s = .next t) :
    ChunkCompleted .ihdr (ihdrPayload s) s t :=
  appendChunk_completed hclear hwf (admitChunk_completed hclear ((exec_writeIhdr s).symm.trans h))

theorem writeIend_completed (hwf : s.par.wf) (h : exec .writeIend s = .next t) : ChunkCompleted .iend [] s t :=
  appendChunk_completed hclear hwf (admitChunk_completed hclear ((exec_writeIend s).symm.trans h))

/-- A WRITE_IDAT that completes has had its answer from the compressor. -/
theorem writeIdat_completed (hwf : s.par.wf) (h : exec .writeIdat s = .next t) :
    ∃ z, deflate s.par s.level (blockBytes s) = .ok z ∧
      ChunkCompleted .idat ([cmf s.cinfo, flg s.cinfo s.level] ++ z ++ be32 (adler32 (blockBytes s))) s t := by
  have hanswer : idatAnswer s (blockBytes s) = .next t :=
    withBlock_completed hclear (admitChunk_completed hclear ((exec_writeIdat s).symm.trans h))
  cases hz : deflate s.par s.level (blockBytes s) with
  | err e => rw [idatAnswer_err hz] at hanswer; exact absurd hanswer.symm (ne_recordFault hclear _ _ _)
  | ok z => exact ⟨z, rfl, appendChunk_completed hclear hwf ((idatAnswer_ok hz).symm.trans hanswer)⟩

end

/-- Settles O43: the signature, then each completed chunk write appends its frame to the stream as it was left. -/
theorem completeStream : Obligations.CompleteStream := by
  intro s a a' b b' c c' d hwf hnew ha hihdr hb hbb hidat hc hcc hiend hd
  cases (exec_streamNew s).symm.trans hnew
  have hwfa : a'.par.wf := by rwa [ha.par, streamStarted_par]
  have headed := writeIhdr_completed hb hwfa hihdr
  have hwfb : b'.par.wf := by rwa [hbb.par, headed.par]
  obtain ⟨z, hz, filled⟩ := writeIdat_completed hc hwfb hidat
  have hwfc : c'.par.wf := by rwa [hcc.par, filled.par]
  have ended := writeIend_completed hd hwfc hiend
  have hbytes : outBytes d = signature ++ frame (tag .ihdr) (ihdrPayload a') ++
      frame (tag .idat) ([cmf b'.cinfo, flg b'.cinfo b'.level] ++ z ++ be32 (adler32 (blockBytes b'))) ++
      frame (tag .iend) [] := by
    rw [ended.bytes, hcc.bytes, filled.bytes, hbb.bytes, headed.bytes, ha.bytes, streamStarted_outBytes]
  refine ⟨z, hz, hbytes, ?_, ended.seq⟩
  have hlength := congrArg List.length hbytes
  rw [outBytes_length] at hlength
  simp only [List.length_append, signature_length, frame_length, ihdrPayload_length, be32_length, List.length_cons,
    List.length_nil] at hlength
  omega

end Sys2Proof.Machine

namespace Sys2Proof.Machine

/-! RESET, the idle step and the recorded fault (45_host_ops.md R231, R240; 60_exceptions.md R255, R257). -/

/-- Settles O8: the step looks at the index alone and finds no operation (log 5). -/
theorem exhaustedListIdles : Obligations.ExhaustedListIdles :=
  fun _ => step_idle

/-- A faulted block discards the command of a CMD write, and no other operation but RESET writes the fault record. -/
theorem perform_keepsFault {op : HostOp} {s t : State} (h : perform op s = .next t) (hreset : op ≠ .reset)
    (hfault : s.fault = true) : t.fault = true ∧ t.faultCode = s.faultCode ∧ t.faultInfo = s.faultInfo := by
  by_cases hcmd : ∃ o w, op = .regWrite o w ∧ regAt o = some .cmd
  · obtain ⟨o, w, rfl, ho⟩ := hcmd
    have hdiscard : perform (.regWrite o w) s = .next s := by
      simp [perform, regWrite, ho, issueCommand_faulted hfault]
    cases hdiscard.symm.trans h
    exact ⟨hfault, rfl, rfl⟩
  · obtain ⟨-, hkept, hcode, hinfo, -⟩ := perform_other h hreset fun o w hop ho => hcmd ⟨o, w, hop, ho⟩
    exact ⟨hkept.trans hfault, hcode, hinfo⟩

/-- Settles O9: RESET writes the reset values and no memory, and every other operation keeps a recorded fault. -/
theorem resetRestoresRegisters : Obligations.ResetRestoresRegisters := by
  constructor
  · intro s hop
    exact ⟨(resetBlock s).advance, step_of_op hop, by simp [State.reset], by simp [State.reset],
      by simp [State.reset], fun _ => rfl, fun _ => rfl⟩
  · intro s t hstep hfault hclear
    rcases step_cases hstep with ⟨-, rfl⟩ | ⟨op, u, hop, hperform, rfl⟩
    · exact absurd (hfault.symm.trans hclear) (by decide)
    · by_contra hnot
      obtain ⟨hkept, -⟩ := perform_keepsFault hperform (by rintro rfl; exact hnot hop) hfault
      exact absurd (hkept.symm.trans hclear) (by decide)

/-! The register map (10_state.md R23, R24): which offsets name one register. -/

/-- An offset below 0x40 names the register that its masked form names. -/
theorem regAt_masked {o : Word} (h : o.toNat < 0x40) : regAt (o &&& 0x3C#32) = regAt o := by
  have hmask := maskedOffset o
  rw [regAt_lt (by omega), regAt_lt h, hmask]
  congr 1
  omega

theorem lt_of_regAt {o : Word} {r : Reg} (h : regAt o = some r) : o.toNat < 0x40 := by
  by_contra hge
  rw [regAt_ge (by omega)] at h
  cases h

/-- Two offsets that name one register are aliases: the map holds no register twice. -/
theorem masked_eq_of_regAt {o x : Word} {r : Reg} (ho : regAt o = some r) (hx : regAt x = some r) :
    o &&& 0x3C#32 = x &&& 0x3C#32 := by
  have hlo := lt_of_regAt ho
  have hlx := lt_of_regAt hx
  rw [regAt_lt hlo] at ho
  rw [regAt_lt hlx] at hx
  obtain ⟨hlt, -⟩ := List.getElem?_eq_some_iff.1 ho
  have hindex : o.toNat / 4 = x.toNat / 4 := (List.getElem?_inj hlt (by decide)).1 (ho.trans hx.symm)
  apply BitVec.eq_of_toNat_eq
  rw [maskedOffset, maskedOffset]
  omega

theorem regRead_of_regAt {o : Word} {r : Reg} (h : regAt o = some r) (s : State) : regRead s o = regValue s r := by
  simp [regRead, h]

theorem regRead_of_regAt_none {o : Word} (h : regAt o = none) (s : State) : regRead s o = 0#32 := by
  simp [regRead, h]

theorem regRead_masked {o : Word} (h : o.toNat < 0x40) (s : State) : regRead s (o &&& 0x3C#32) = regRead s o := by
  simp [regRead, regAt_masked h]

/-! What a register reads, in integers (45_host_ops.md R233). -/

/-- A field placed above the rest of a register adds to it. -/
theorem placed_or_toNat {m : Nat} (a : BitVec m) (n : Nat) (h : m + n ≤ 32) {y : Word} (hy : y.toNat < 2 ^ n) :
    (a.setWidth 32 <<< n ||| y).toNat = a.toNat * 2 ^ n + y.toNat := by
  rw [BitVec.toNat_or, placed_toNat a n h, or_eq_add n hy]

/-- Two fields, the lower at bit 0. -/
theorem twoFields_toNat {m k : Nat} (a : BitVec m) (b : BitVec k) (h : m + k ≤ 32) :
    (a.setWidth 32 <<< k ||| b.setWidth 32).toNat = a.toNat * 2 ^ k + b.toNat := by
  have hb : (b.setWidth 32).toNat = b.toNat := BitVec.toNat_setWidth_of_le (by omega)
  rw [placed_or_toNat a k h (by rw [hb]; exact b.isLt), hb]

theorem statusWord_toNat (s : State) : (statusWord s).toNat =
    (faultCodeBits s.faultCode).toNat * 256 + (BitVec.ofBool s.fault).toNat * 8 + (seqBits s.seq).toNat := by
  have hlow := twoFields_toNat (BitVec.ofBool s.fault) (seqBits s.seq) (by decide)
  rw [statusWord, BitVec.or_assoc, placed_or_toNat _ 8 (by decide) (by omega), hlow]
  omega

theorem regValue_ctrl_toNat (s : State) : (regValue s .ctrl).toNat = if s.strict then 1 else 0 := by
  cases h : s.strict <;> simp [regValue, h]

theorem regValue_zcfg_toNat (s : State) : (regValue s .zcfg).toNat = s.level.toNat * 16 + s.cinfo.toNat :=
  twoFields_toNat s.level s.cinfo (by decide)

theorem regValue_ihdrFmt_toNat (s : State) : (regValue s .ihdrFmt).toNat =
    s.filter.toNat * 16777216 + s.compression.toNat * 65536 + s.colorType.toNat * 256 + s.bitDepth.toNat := by
  have hlow := twoFields_toNat s.colorType s.bitDepth (by decide)
  have hmid := placed_or_toNat s.compression 16 (by decide) (hlow.trans_lt (by omega))
  rw [regValue, BitVec.or_assoc, BitVec.or_assoc, placed_or_toNat _ 24 (by decide) (by omega), hmid, hlow]
  omega

theorem regValue_ihdrIlace_toNat (s : State) : (regValue s .ihdrIlace).toNat = s.interlace.toNat :=
  BitVec.toNat_setWidth_of_le (by decide)

/-- Settles O49: a read goes through the register map, and each register's fields stand side by side in its value. -/
theorem registerRead : Obligations.RegisterRead := by
  refine ⟨fun s o hop => step_of_op hop, fun s o ho => regRead_of_regAt_none (regAt_ge ho) s,
    fun s o ho => (regRead_masked ho s).symm, fun s => ?_⟩
  have hadler : (regRead s 0x1C#32).toNat = s.s2.toNat * 65536 + s.s1.toNat := by
    rw [regRead_adler, adlerValue_toNat]
  refine ⟨rfl, (statusWord_toNat s).trans (congrArg₂ (· + ·) (congrArg₂ (· + ·) (congrArg (· * 256) ?_) ?_) ?_),
    regValue_ctrl_toNat s, rfl, rfl, rfl, rfl, hadler, rfl, rfl, regValue_zcfg_toNat s, rfl, rfl,
    regValue_ihdrFmt_toNat s, regValue_ihdrIlace_toNat s, rfl⟩
  · cases s.faultCode <;> rfl
  · cases s.fault <;> rfl
  · cases s.seq <;> rfl

/-! What a register write stores (45_host_ops.md R232; 10_state.md R25). -/

/-- The bits of a read-write register that its fields cover. -/
def fieldBits : Reg → Word
  | .ctrl => 0x00000001#32
  | .zcfg => 0x0000003F#32
  | .ihdrIlace => 0x000000FF#32
  | _ => 0xFFFFFFFF#32

/-- The mask of each writable offset is the field bits of its register, a read-write one. -/
theorem regAt_of_mem_writableBits {o m : Word} (h : (o, m) ∈ writableBits) :
    ∃ r, regAt o = some r ∧ access r = .readWrite ∧ fieldBits r = m := by
  have hrows : writableBits.map (fun p => (regAt p.1).map fun r => (access r, fieldBits r)) =
      writableBits.map fun p => some (.readWrite, p.2) := rfl
  simpa using List.map_inj_left.1 hrows _ h

theorem regAt_of_mem_readOnlyOffsets {o : Word} (h : o ∈ readOnlyOffsets) :
    ∃ r, regAt o = some r ∧ access r = .readOnly := by
  have hrows : readOnlyOffsets.map (fun x => (regAt x).map access) = readOnlyOffsets.map fun _ => some .readOnly := rfl
  simpa using List.map_inj_left.1 hrows _ h

theorem storeReg_of_readOnly {r : Reg} (h : access r = .readOnly) (v : Word) (s : State) : storeReg v s r = s := by
  cases r with
  | status | faultInfo | adler | id | result | outLen => rfl
  | cmd | ctrl | srcAddr | srcLen | crcAcc | zcfg | ihdrWidth | ihdrHeight | ihdrFmt | ihdrIlace => cases h

/-- A mask of the low bits keeps the remainder. -/
theorem eq_and_lowBits {x v : Word} (n : Nat) (hn : n ≤ 32) (h : x.toNat = v.toNat % 2 ^ n) :
    x = v &&& BitVec.ofNat 32 (2 ^ n - 1) := by
  have hle : 2 ^ n ≤ 2 ^ 32 := Nat.pow_le_pow_right (by decide) hn
  have hmask : (2 ^ n - 1) % 2 ^ 32 = 2 ^ n - 1 := Nat.mod_eq_of_lt (by omega)
  apply BitVec.eq_of_toNat_eq
  rw [h, BitVec.toNat_and, BitVec.toNat_ofNat, hmask, Nat.and_two_pow_sub_one_eq_mod]

theorem extractLsb'_toNat_eq_div_mod (v : Word) (k n : Nat) : (v.extractLsb' k n).toNat = v.toNat / 2 ^ k % 2 ^ n := by
  rw [BitVec.extractLsb'_toNat, Nat.shiftRight_eq_div_pow]

/-- A read-write register then reads the written value without its reserved bits. -/
theorem regValue_storeReg_same {r : Reg} (h : access r = .readWrite) (v : Word) (s : State) :
    regValue (storeReg v s r) r = v &&& fieldBits r := by
  cases r with
  | ctrl =>
    refine eq_and_lowBits 1 (by decide) ((regValue_ctrl_toNat _).trans ?_)
    simp only [storeReg, BitVec.getLsbD, Nat.testBit_zero, decide_eq_true_eq]
    split <;> omega
  | zcfg =>
    refine eq_and_lowBits 6 (by decide) ((regValue_zcfg_toNat _).trans ?_)
    simp only [storeReg, extractLsb'_toNat_eq_div_mod]
    omega
  | ihdrFmt =>
    refine eq_and_lowBits 32 (by decide) ((regValue_ihdrFmt_toNat _).trans ?_)
    simp only [storeReg, extractLsb'_toNat_eq_div_mod]
    omega
  | ihdrIlace =>
    refine eq_and_lowBits 8 (by decide) ((regValue_ihdrIlace_toNat _).trans ?_)
    simp only [storeReg, extractLsb'_toNat_eq_div_mod]
    omega
  | srcAddr | srcLen | crcAcc | ihdrWidth | ihdrHeight => exact BitVec.and_allOnes.symm
  | cmd | status | faultInfo | adler | id | result | outLen => cases h

/-- A store reaches the register it names and no other: no two registers share a field. -/
theorem regValue_storeReg (v : Word) (s : State) (r x : Reg) :
    regValue (storeReg v s r) x = if x = r then regValue (storeReg v s r) r else regValue s x := by
  cases r <;> cases x <;> rfl

theorem regRead_storeReg_other {o x : Word} {r : Reg} (hr : regAt o = some r)
    (hne : o &&& 0x3C#32 ≠ x &&& 0x3C#32) (v : Word) (s : State) : regRead (storeReg v s r) x = regRead s x := by
  cases hx : regAt x with
  | none => rw [regRead_of_regAt_none hx, regRead_of_regAt_none hx]
  | some q =>
    have hq : q ≠ r := by rintro rfl; exact hne (masked_eq_of_regAt hr hx)
    rw [regRead_of_regAt hx, regRead_of_regAt hx, regValue_storeReg, if_neg hq]

theorem step_regWrite_of_regAt_none {s : State} {o v : Word} (h : s.program[s.opIndex]? = some (.regWrite o v))
    (hr : regAt o = none) : step s = .next s.advance := by
  have hwrite : perform (.regWrite o v) s = .next s := by simp [perform, regWrite, hr]
  rw [step_of_op h, hwrite, onNext_next]

theorem step_regWrite_of_regAt {s : State} {o v : Word} {r : Reg} (h : s.program[s.opIndex]? = some (.regWrite o v))
    (hr : regAt o = some r) (hcmd : r ≠ .cmd) : step s = .next (storeReg v s r).advance := by
  have hwrite : perform (.regWrite o v) s = .next (storeReg v s r) := by simp [perform, regWrite, hr, hcmd]
  rw [step_of_op h, hwrite, onNext_next]

/-- Settles O48: the map picks the register, and its access right says whether the store reaches its fields. -/
theorem registerWrite : Obligations.RegisterWrite := by
  refine fun s o v hop => ⟨fun ho => step_of_writesCmd ⟨o, ho, hop⟩, ?_, fun m hlt hm => ?_⟩
  · rintro (hge | ⟨hlt, hro⟩)
    · exact step_regWrite_of_regAt_none hop (regAt_ge hge)
    · obtain ⟨r, hr, hacc⟩ := regAt_of_mem_readOnlyOffsets hro
      have hstep := step_regWrite_of_regAt hop ((regAt_masked hlt).symm.trans hr) (by rintro rfl; cases hacc)
      rwa [storeReg_of_readOnly hacc] at hstep
  · obtain ⟨r, hr, hacc, rfl⟩ := regAt_of_mem_writableBits hm
    have ho : regAt o = some r := (regAt_masked hlt).symm.trans hr
    refine ⟨(storeReg v s r).advance, step_regWrite_of_regAt hop ho (by rintro rfl; cases hacc), ?_,
      fun x hx => regRead_storeReg_other ho hx v s, fun a => by simp [inByte], fun a => by simp [outByte]⟩
    exact (regRead_of_regAt ho _).trans (regValue_storeReg_same hacc v s)

/-! Host reads of OUT (45_host_ops.md R236; 20_memory.md R67). -/

/-- Settles O52: the step of an OUT read changes the values read, the counter of draws and the index (log 7). -/
theorem hostReadOfOutput : Obligations.HostReadOfOutput := fun s a hop =>
  ⟨(performOutRead a s).advance, outRead s a, step_of_op hop, congrArg State.advance (performOutRead_rest a s),
    fun ha => if_pos ha⟩

end Sys2Proof.Machine

namespace Sys2Proof.Machine

/-! A faulted block (60_exceptions.md R255, R258). -/

/-- Settles O15: an operation that is not RESET keeps a recorded fault, and the index is no part of it. -/
theorem firstFaultIsKept : Obligations.FirstFaultIsKept := by
  intro s t hfault hnotReset hstep
  rcases step_cases hstep with ⟨-, rfl⟩ | ⟨op, u, hop, hperform, rfl⟩
  · exact ⟨hfault, rfl, rfl⟩
  · have hkept := perform_keepsFault hperform (by rintro rfl; exact hnotReset hop) hfault
    exact hkept

/-- Settles O14: the issue of a command word looks at FAULT and discards it; no other host operation looks at FAULT, so
each is as in every state. -/
theorem faultedBlockDiscardsCommands : Obligations.FaultedBlockDiscardsCommands := by
  intro s hfault
  refine ⟨fun w hcmd => ?_, fun o v m hm hlt hop => ?_, fun a b hop ha => ?_, fun o hop => ?_, fun a hop ha => ?_,
    fun a hop ha => ?_⟩
  · rw [step_of_writesCmd hcmd, issueCommand_faulted hfault]
    rfl
  · obtain ⟨-, -, hstore⟩ := registerWrite s o v hop
    obtain ⟨t, hstep, hread, -⟩ := hstore m hlt hm
    exact ⟨t, hstep, hread⟩
  · exact ⟨(inWrite a b s).advance, step_inWrite hop, (inByte_inWrite a b s a.toNat).trans (if_pos ⟨rfl, ha⟩)⟩
  · obtain ⟨hread, -⟩ := registerRead
    exact ⟨_, hread s o hop, rfl⟩
  · refine ⟨_, step_inRead hop, ?_⟩
    have hbyte : inRead s a = inByte s a.toNat := if_pos ha
    simp [hbyte]
  · obtain ⟨t, b, hstep, ht, hbyte⟩ := hostReadOfOutput s a hop
    exact ⟨t, hstep, by rw [ht, hbyte ha]⟩

/-! A fault raised (60_exceptions.md R251 to R254): by a CMD write alone, with the fault record as the whole effect. -/

/-- The faults that all three WRITE_* commands can raise (60_exceptions.md R251). -/
def chunkFaults : List FaultCode := [.noSignature, .order, .outOverflow]

/-- What a command makes of the fault record: it keeps FAULT, or it records a fault for one of the causes of R251, with
the FAULT_INFO that R253 gives for the cause. -/
inductive FaultEffect (i : Instr) (s : State) : State → Prop
  /-- It leaves FAULT as it was. -/
  | kept {t : State} (h : t.fault = s.fault) : FaultEffect i s t
  /-- Its block does not lie in IN. -/
  | range (hi : .srcRange ∈ mayRaise i) (hout : s.par.inCap < s.srcAddr.toNat + s.srcLen.toNat) :
      FaultEffect i s (recordFault .srcRange (encode i) s)
  /-- The compressor answers WRITE_IDAT with an error. -/
  | compressor (hi : i = .writeIdat) (e : Word) (he : deflate s.par s.level (blockBytes s) = .err e) :
      FaultEffect i s (recordFault .deflateFail e s)
  /-- A chunk write is not admitted, or its frame does not fit. -/
  | chunk (k : Chunk) (hi : i = chunkCommand k) (c : FaultCode) (hc : c ∈ chunkFaults) :
      FaultEffect i s (recordFault c (encode i) s)

section
variable {i : Instr} {k : Chunk} {s t : State}

theorem withBlock_faultEffect {body : List Byte → Result} (h : withBlock (encode i) s body = .next t)
    (hi : .srcRange ∈ mayRaise i) (hbody : body (blockBytes s) = .next t → FaultEffect i s t) : FaultEffect i s t := by
  rcases withBlock_cases h with ⟨-, ht⟩ | ⟨hout, ht⟩
  · exact hbody ht.symm
  · cases ht; exact .range hi hout

/-- A block command whose body only computes. -/
theorem blockCommand_faultEffect {f : List Byte → State} (h : withBlock (encode i) s (fun d => .next (f d)) = .next t)
    (hi : .srcRange ∈ mayRaise i) (hf : ∀ d, (f d).fault = s.fault) : FaultEffect i s t :=
  withBlock_faultEffect h hi fun ht => by cases ht; exact .kept (hf _)

theorem admitChunk_faultEffect {body : Result} (h : admitChunk k (encode (chunkCommand k)) s body = .next t)
    (hbody : body = .next t → FaultEffect (chunkCommand k) s t) : FaultEffect (chunkCommand k) s t := by
  rcases admitChunk_cases h with ⟨-, ht⟩ | ⟨-, -, -, ht⟩ | ⟨-, -, ht⟩
  · cases ht; exact .chunk k rfl .noSignature (by simp [chunkFaults])
  · cases ht; exact .chunk k rfl .order (by simp [chunkFaults])
  · exact hbody ht.symm

theorem appendChunk_faultEffect {p : List Byte} (h : appendChunk k p (encode (chunkCommand k)) s = .next t) :
    FaultEffect (chunkCommand k) s t := by
  rcases appendChunk_cases h with ⟨-, ht⟩ | ⟨-, ht⟩ <;> cases ht
  · exact .kept (chunkWritten_fault k p s)
  · exact .chunk k rfl .outOverflow (by simp [chunkFaults])

theorem idatAnswer_faultEffect (h : idatAnswer s (blockBytes s) = .next t) : FaultEffect .writeIdat s t := by
  cases hz : deflate s.par s.level (blockBytes s) with
  | err e => cases (idatAnswer_err hz).symm.trans h; exact .compressor rfl e hz
  | ok c => exact appendChunk_faultEffect (k := .idat) ((idatAnswer_ok hz).symm.trans h)

/-- Every command has one of those effects: the checks of R252 are those of the shared operations it is made of. -/
theorem exec_faultEffect (h : exec i s = .next t) : FaultEffect i s t := by
  cases i with
  | crcInit => cases h; exact .kept rfl
  | crcByte b => cases h; exact .kept rfl
  | crcBlock =>
    rw [exec_crcBlock] at h
    exact blockCommand_faultEffect (i := .crcBlock) h (by simp [mayRaise]) fun _ => rfl
  | crcFinal => cases h; exact .kept rfl
  | crcOneshot =>
    rw [exec_crcOneshot] at h
    exact blockCommand_faultEffect (i := .crcOneshot) h (by simp [mayRaise]) fun _ => rfl
  | crcTblRead b => cases h; exact .kept rfl
  | adlerInit => cases h; exact .kept rfl
  | adlerByte b => cases h; exact .kept rfl
  | adlerBlock =>
    rw [exec_adlerBlock] at h
    exact blockCommand_faultEffect (i := .adlerBlock) h (by simp [mayRaise]) fun _ => rfl
  | adlerFinal => cases h; exact .kept rfl
  | adlerOneshot =>
    rw [exec_adlerOneshot] at h
    exact blockCommand_faultEffect (i := .adlerOneshot) h (by simp [mayRaise]) fun _ => rfl
  | zlibHdr => cases h; exact .kept rfl
  | streamNew => cases h; exact .kept rfl
  | writeIhdr => exact admitChunk_faultEffect (k := .ihdr) h appendChunk_faultEffect
  | writeIdat =>
    exact admitChunk_faultEffect (k := .idat) h fun hadmitted =>
      withBlock_faultEffect hadmitted (by simp [chunkCommand, mayRaise]) idatAnswer_faultEffect
  | writeIend => exact admitChunk_faultEffect (k := .iend) h appendChunk_faultEffect

/-- A fault that a command raises is in its list. -/
theorem FaultEffect.faultCode_mem_mayRaise (h : FaultEffect i s t) (hclear : s.fault = false)
    (hfault : t.fault = true) : t.faultCode ∈ mayRaise i := by
  cases h with
  | kept hkept => simp [hkept, hclear] at hfault
  | range hi => exact hi
  | compressor hi e => subst hi; simp [mayRaise]
  | chunk k hi c hc =>
    subst hi
    have hsub : chunkFaults ⊆ mayRaise (chunkCommand k) := by cases k <;> simp [chunkFaults, chunkCommand, mayRaise]
    exact hsub hc

/-- Outside the stream builder the one cause of a fault is the range check. -/
theorem FaultEffect.fault_eq_of_inRange (h : FaultEffect i s t) (hi : isStreamCommand i = false)
    (hin : s.srcAddr.toNat + s.srcLen.toNat ≤ s.par.inCap) : t.fault = s.fault := by
  cases h with
  | kept hkept => exact hkept
  | range _ hout => exact absurd hin (Nat.not_le.2 hout)
  | compressor hidat => subst hidat; cases hi
  | chunk k hk => simp [hk, isStreamCommand_chunkCommand] at hi

end

/-- Settles O17: each cause of a fault is in the command's list, and a checksum command has the range check alone. -/
theorem commandsRaiseOnlyTheirFaults : Obligations.CommandsRaiseOnlyTheirFaults :=
  ⟨fun _ _ _ hclear hexec hfault => (exec_faultEffect hexec).faultCode_mem_mayRaise hclear hfault,
    fun _ _ _ hclear hi hin hexec => ((exec_faultEffect hexec).fault_eq_of_inRange hi hin).trans hclear⟩

/-- An operation that takes FAULT from 0 to 1 is a CMD write. -/
theorem perform_raises {op : HostOp} {s t : State} (h : perform op s = .next t) (hclear : s.fault = false)
    (hfault : t.fault = true) : ∃ o w, op = .regWrite o w ∧ regAt o = some .cmd ∧ issueCommand w s = .next t := by
  have hreset : op ≠ .reset := by
    rintro rfl
    cases h
    cases hfault
  by_cases hcmd : ∃ o w, op = .regWrite o w ∧ regAt o = some .cmd
  · obtain ⟨o, w, rfl, ho⟩ := hcmd
    exact ⟨o, w, rfl, ho, by simpa [perform, regWrite, ho] using h⟩
  · obtain ⟨-, hkept, -⟩ := perform_other h hreset fun o w hop ho => hcmd ⟨o, w, hop, ho⟩
    exact absurd (hfault.symm.trans (hkept.trans hclear)) (by decide)

/-- Everything a step that takes FAULT from 0 to 1 can be: the issue of an illegal word, or of a command that faults. -/
theorem step_raises {s t : State} (h : step s = .next t) (hclear : s.fault = false) (hfault : t.fault = true) :
    ∃ w, writesCmd w s ∧ (t = (recordFault .illegalCmd w s).advance ∨
      ∃ i u, decode w = .command i ∧ exec i s = .next u ∧ u.fault = true ∧ t = u.advance) := by
  rcases step_cases h with ⟨-, rfl⟩ | ⟨op, u, hop, hperform, rfl⟩
  · exact absurd (hfault.symm.trans hclear) (by decide)
  obtain ⟨o, w, rfl, ho, hissue⟩ := perform_raises hperform hclear hfault
  refine ⟨w, ⟨o, regAt_eq_cmd.1 ho, hop⟩, ?_⟩
  rcases issueCommand_cases hissue with ⟨hset, -⟩ | ⟨-, -, rfl⟩ | ⟨-, i, hdecode, hexec⟩
  · exact absurd (hset.symm.trans hclear) (by decide)
  · exact .inl rfl
  · exact .inr ⟨i, u, hdecode, hexec, hfault, rfl⟩

/-- A command that takes FAULT from 0 to 1 has the fault record as its whole effect. -/
theorem CommandEffect.eq_recordFault {i : Instr} {s t : State} (h : CommandEffect i s t) (hclear : s.fault = false)
    (hfault : t.fault = true) : ∃ c w, c ≠ .none ∧ t = recordFault c w s := by
  cases h with
  | faulted c w hc => exact ⟨c, w, hc, rfl⟩
  | checksum acc p res => exact absurd (hfault.symm.trans hclear) (by decide)
  | newStream => exact absurd (hfault.symm.trans hclear) (by decide)
  | chunk k p =>
    rw [chunkWritten_fault] at hfault
    exact absurd (hfault.symm.trans hclear) (by decide)

/-- Settles O13: an illegal word and a faulting command both make the fault record and nothing else, and then the index
advances. -/
theorem faultsArePrecise : Obligations.FaultsArePrecise := by
  intro s t hstep hclear hfault
  obtain ⟨w, -, rfl | ⟨i, u, -, hexec, hu, rfl⟩⟩ := step_raises hstep hclear hfault
  · exact ⟨by simp, rfl⟩
  · obtain ⟨c, info, hc, rfl⟩ := (exec_cases hexec).eq_recordFault hclear hu
    exact ⟨hc, rfl⟩

/-- FAULT_INFO after a command's fault: the command's own word, or for DEFLATE_FAIL the compressor's error. -/
theorem FaultEffect.faultInfo {i : Instr} {s t : State} (h : FaultEffect i s t) (hclear : s.fault = false)
    (hfault : t.fault = true) :
    (t.faultCode ≠ .deflateFail → t.faultInfo = encode i) ∧
    (t.faultCode = .deflateFail → i = .writeIdat ∧ deflate s.par s.level (blockBytes s) = .err t.faultInfo) := by
  cases h with
  | kept hkept => simp [hkept, hclear] at hfault
  | range => exact ⟨fun _ => rfl, by simp⟩
  | compressor hi e he => exact ⟨fun hne => absurd rfl hne, fun _ => ⟨hi, he⟩⟩
  | chunk k hi c hc =>
    have hcode : c ≠ .deflateFail := by rintro rfl; simp [chunkFaults] at hc
    exact ⟨fun _ => rfl, fun heq => absurd heq hcode⟩

/-- Settles O16: the word written is the illegal word itself, or the word that the faulting command encodes to. -/
theorem faultInfoIsWordOrCompressorError : Obligations.FaultInfoIsWordOrCompressorError := by
  intro s t hstep hclear hfault
  obtain ⟨w, hcmd, rfl | ⟨i, u, hdecode, hexec, hu, rfl⟩⟩ := step_raises hstep hclear hfault
  · exact ⟨w, hcmd, fun _ => rfl, by simp⟩
  · obtain rfl := encode_of_decode hdecode
    obtain ⟨hword, herror⟩ := (exec_faultEffect hexec).faultInfo hclear hu
    refine ⟨encode i, hcmd, hword, fun hcode => ?_⟩
    obtain ⟨rfl, he⟩ := herror hcode
    exact ⟨rfl, he⟩

end Sys2Proof.Machine

namespace Sys2Proof.Machine

/-! The checksum commands beside a stream (70_reset_and_hazards.md R284): they write at most a fault record, CRC_ACC, the
sums or RESULT, so all of OUT stays, above OUT_LEN too. -/

theorem CommandEffect.outMem_eq {i : Instr} {s t : State} (h : CommandEffect i s t)
    (hi : isStreamCommand i = false) : t.outMem = s.outMem := by
  cases h with
  | faulted c w => rfl
  | checksum acc p res => rfl
  | newStream hnew => subst hnew; cases hi
  | chunk k p hk => simp [hk, isStreamCommand_chunkCommand] at hi

/-- Settles O47: such a command keeps the stream and OUT's memory, and no command at all writes IN. -/
theorem checksumCommandsLeaveStream : Obligations.ChecksumCommandsLeaveStream := by
  intro i s t hi hexec
  have heffect := exec_cases hexec
  obtain ⟨hpar, hseq, hlen, -⟩ := heffect.sameStream hi
  obtain ⟨hin, -⟩ := commandsLeaveInputAndConfiguration i s t hexec
  exact ⟨hseq, hlen, outByte_of_outMem (heffect.outMem_eq hi) hpar, hin⟩

end Sys2Proof.Machine
